-- ==== Sys2Proof/Config.lean ====
section
/-! DEFINITION. The protocol constants (00_scope.md R6, R7), the open parameters of the machine and
the values the spec takes for them (R8). Durations are in microseconds. -/

/-- The parameters the source leaves open, each "an argument of the model" (00_scope.md R8). They are
fixed for a machine: State carries them and no step changes them (10_state.md R40; log 10, log 11). -/
structure Sys2Proof.Params where
  /-- TOL_PCT, the percentage of the matching functions. -/
  tolPct : Nat
  /-- DUR_W, the width of one buffer entry. -/
  durW   : Nat
  /-- LEN_W, the width of the declared buffer length. -/
  lenW   : Nat
  /-- RPT_W, the width of the repeat count of SEND. -/
  rptW   : Nat
  /-- TICK_US, microseconds per tick of the encoder's time base. -/
  tickUs : Nat
  /-- ADDR_W, the width of RES_ADDR. -/
  addrW  : Nat
  /-- CMD_W, the width of RES_CMD. -/
  cmdW   : Nat
deriving DecidableEq, Repr

namespace Sys2Proof.Config

/-- HDR_MARK (R6). -/
def hdrMark : Nat := 7000
/-- HDR_SPACE (R6). -/
def hdrSpace : Nat := 4000
/-- BIT0_MARK (R6). -/
def bit0Mark : Nat := 720
/-- BIT1_MARK (R6). -/
def bit1Mark : Nat := 2400
/-- BIT_SPACE (R6). -/
def bitSpace : Nat := 840
/-- RPT_GAP (R6): what the decoder compares a repeat boundary with (90_conflicts.md C2). -/
def rptGap : Nat := 2700
/-- TRAIL_SPACE (R7): what the encoder adds after a frame's last BIT_SPACE. -/
def trailSpace : Nat := rptGap - bitSpace
/-- NBITS, the data bits of one frame (R6). -/
def frameBits : Nat := 40
/-- MIN_LEN (R7): the least buffer length the decoder accepts. -/
def minLen : Nat := 2 + frameBits * 2
/-- ACC_W (R7): the width of the accumulator, the upper bound of the bit budget. -/
def accWidth : Nat := 64
/-- FRAME_ENTRIES (R7). -/
def frameEntries : Nat := 82
/-- The spec's values of the open parameters (R8). -/
def defaultParams : Params :=
  { tolPct := 25, durW := 16, lenW := 16, rptW := 8, tickUs := 1, addrW := 32, cmdW := 32 }
/-- The greatest TOL_PCT the spec admits (R9). -/
def maxTolPct : Nat := 50
/-- The durations the encoder emits (R6, R7). -/
def emitted : List Nat := [hdrMark, hdrSpace, bit0Mark, bit1Mark, bitSpace, trailSpace]

end Sys2Proof.Config

/-- The parameters a machine can have: TOL_PCT at most 50 (00_scope.md R9); a tick that divides every
emitted duration, since a segment lasts exactly d microseconds and d / TICK_US ticks (R15); a repeat
count that fits the 64 data bits of an operation word (30_encoding.md R86); result fields that fit
`op_rdata` (40_command_word_ops.md R107). All but the first are DEDUCED, log 11. -/
def Sys2Proof.Params.ok (p : Params) : Bool :=
  decide (p.tolPct ≤ Config.maxTolPct) && Config.emitted.all (fun d => d % p.tickUs == 0) &&
    decide (p.rptW ≤ 64) && decide (p.addrW ≤ 64) && decide (p.cmdW ≤ 64)
end

