-- ==== Sys2Proof/Word.lean ====
section
/-! DEFINITION. The word types of the codec: unsigned bit vectors of the widths the spec fixes
(00_scope.md R10, R11). What has a width that is a parameter (R8) is a number, bounded by it (log 11). -/

namespace Sys2Proof

/-- A 64-bit word: CW, ACC, RES_VALUE, `op_rdata` (10_state.md R20, R24, R29, R31). -/
abbrev Word64 := BitVec 64

/-- An operation word on the port (30_encoding.md R83). -/
abbrev OpWord := BitVec 72

/-- The forty transmitted bits of a command word (30_encoding.md R70). -/
abbrev Payload := BitVec 40

/-- One segment of the output trace: the level of `ir_out` (`true` = 1, a mark) and how many
microseconds it is held (00_scope.md R15). -/
structure Segment where
  level : Bool
  dur   : Nat
deriving DecidableEq, Repr

end Sys2Proof
end

