-- ==== Sys2Proof/Syntax.lean ====
section
/-! DEFINITION. The instructions: one constructor for each row of spec/opcode_table.json, and the
operand types they carry. -/

namespace Sys2Proof

/-- The five named fields of the command word (10_state.md R21). -/
inductive FieldName where
  | tc     -- Temperature-Celsius
  | tf     -- Temperature-Fahrenheit
  | pwr    -- Power
  | units  -- Units
  | flow   -- Flow
deriving DecidableEq, Repr

/-- The six decode result registers RRD can name (30_encoding.md R87). -/
inductive ResultName where
  | value
  | bits
  | addr
  | cmd
  | ok
  | fail
deriving DecidableEq, Repr

/-- A selector operand: one of the names of `α`, or a reserved code, which the operation refuses
(30_encoding.md R85, R87, R88). -/
inductive Selector (α : Type) where
  | named (a : α)
  | reserved (code : BitVec 4)
deriving DecidableEq, Repr

/-- The forty bits of a command word by field, most significant field first (30_encoding.md R70). -/
structure CommandWord where
  rHigh : BitVec 18
  flow  : BitVec 1
  units : BitVec 1
  pwr   : BitVec 1
  rLow  : BitVec 3
  tf    : BitVec 8
  tc    : BitVec 8
deriving DecidableEq, Repr

/-- The instructions. The first nine are what an operation word decodes to (30_encoding.md R84, R88);
the next five are the pseudo-operations of R91, other spellings of the words of FWR and CWWR; the
last five are the rows of the table that are no operation words: the wire symbols of R73 and the
command word layout of R70 (log 8, log 9). -/
inductive Instr where
  /-- CWRD: read the whole command word. -/
  | cwrd
  /-- CWWR v: replace the whole command word. -/
  | cwwr (v : Word64)
  /-- FRD f: read one named field. -/
  | frd (f : Selector FieldName)
  /-- FWR f, v: masked write of one named field. -/
  | fwr (f : Selector FieldName) (v : BitVec 8)
  /-- TWR tf, tc: masked write of both temperature fields. -/
  | twr (tf tc : BitVec 8)
  /-- SEND r: transmit CW[39:0] as r + 1 frames; r has RPT_W bits (00_scope.md R8). -/
  | send (r : Nat)
  /-- DECODE: decode the Captured Timing Buffer. -/
  | decode
  /-- RRD q: read one decode result register. -/
  | rrd (q : Selector ResultName)
  /-- A reserved operation code, 0x8 to 0xF. -/
  | reservedOpc (opc : BitVec 4)
  /-- PWRON = FWR PWR, 1. -/
  | pwron
  /-- PWROFF = FWR PWR, 0. -/
  | pwroff
  /-- UNITC = FWR UNITS, 1. -/
  | unitc
  /-- UNITF = FWR UNITS, 0. -/
  | unitf
  /-- ACCEPT v = CWWR v, the decode handoff. -/
  | accept (v : Word64)
  /-- HDR: header mark and header space. -/
  | hdr
  /-- BIT0: one data bit of value 0. -/
  | bit0
  /-- BIT1: one data bit of value 1. -/
  | bit1
  /-- TRAIL: the space that ends a frame. -/
  | trail
  /-- CW40: the forty payload bits of a frame, by field. -/
  | cw40 (w : CommandWord)
deriving DecidableEq, Repr

/-- One line of the assembler (30_encoding.md R90, R91), its numbers as written: any natural number. -/
inductive AsmLine where
  | cwrd
  | cwwr (v : Nat)
  | frd (f : FieldName)
  | fwr (f : FieldName) (v : Nat)
  | twr (tf tc : Nat)
  | send (r : Nat)
  | decode
  | rrd (q : ResultName)
  | pwron
  | pwroff
  | unitc
  | unitf
  | accept (v : Nat)
deriving DecidableEq, Repr

end Sys2Proof
end

