-- ==== Sys2Proof/Machine/State.lean ====
section
/-! DEFINITION. The state of the codec and of what drives it: every register of 10_state.md R40, the
ports of R29, the Captured Timing Buffer of 20_memory.md R50, and the other agents of 00_scope.md R5
as data. INVENTORY.md lists each field with its rule and its reset value. -/

namespace Sys2Proof.Machine

/-- Why a step can stop the machine. There is no such reason: "Nothing in this core is fatal"
(60_exceptions.md R190), a decode failure and a refused word are next states (R193, R194), and a
stopped time base is a state that stays (93_implementation_defined.md U16). So the type has no
constructor, nothing raises one, and that is safe or unsafe nowhere (log 17). -/
inductive Fault
deriving DecidableEq, Repr

/-- Why the model has no meaning for an instruction. -/
inductive Refusal where
  /-- The instruction with this mnemonic has no meaning in the model yet. Raised by an arm of `exec`
  only; no arm raises it now. Safe: nothing is claimed about such an instruction. -/
  | notModelled (mnemonic : String)
deriving DecidableEq, Repr

/-- `rsp_status` (10_state.md R29, 60_exceptions.md R201). The value 3 is never produced (U14). -/
inductive Status where
  | ok
  | fail
  | refused
deriving DecidableEq, Repr

/-- The response to an accepted operation: `rsp_status` and `op_rdata` (60_exceptions.md R201). -/
structure Response where
  status : Status
  rdata  : Word64
deriving DecidableEq, Repr

/-- The causes of a decode failure (60_exceptions.md R191). -/
inductive DecodeFailure where
  | short
  | hdrMark
  | hdrSpace
  | bitMark
  | space
  | resyncMark
  | resyncSpace
  | overrun
  | budget
  | overflow
deriving DecidableEq, Repr

/-- DEC_STATE (10_state.md R34, 42_decoder.md R175). -/
inductive DecState where
  | idle
  | check
  | hdrM
  | hdrS
  | bitM
  | afterM
  | rsyM
  | rsyS
deriving DecidableEq, Repr

/-- TX_STATE (10_state.md R35, 41_encoder.md R135). -/
inductive TxState where
  | idle
  | hdrM
  | hdrS
  | bitM
  | bitS
  | trail
deriving DecidableEq, Repr

/-- The decode result registers (10_state.md R23 to R27). -/
structure Results where
  ok       : Bool         -- RES_OK
  value    : Word64       -- RES_VALUE
  bits     : BitVec 8     -- RES_BITS
  addr     : Nat          -- RES_ADDR, below 2^ADDR_W (log 11)
  cmd      : Nat          -- RES_CMD, below 2^CMD_W (log 11)
  failCode : BitVec 4     -- FAILCODE
deriving DecidableEq, Repr

/-- The decoder's working registers (10_state.md R30 to R34). -/
structure DecWork where
  state   : DecState      -- DEC_STATE
  offset  : Nat           -- OFFSET, below 2^(LEN_W + 1): never exceeds LEN, never wraps (R30; log 11)
  acc     : Word64        -- ACC
  nbits   : BitVec 7      -- NBITS
  maxBits : BitVec 7      -- MAXBITS
  lenQ    : Nat           -- LEN_Q, below 2^LEN_W (log 11)
  ovfQ    : Bool          -- OVF_Q
deriving DecidableEq, Repr

/-- The encoder's working registers (10_state.md R35 to R39). -/
structure TxWork where
  state  : TxState        -- TX_STATE
  timer  : BitVec 13      -- TX_TIMER
  sr     : Payload        -- TX_SR
  bits   : BitVec 6       -- TX_BITS
  frames : Nat            -- TX_FRAMES, at most 2^RPT_W (R39; log 11)
deriving DecidableEq, Repr

/-- The Captured Timing Buffer: (index, entry) pairs, indices strictly rising, no entry equal to what
an unlisted index reads as (20_memory.md R50; log 3). An entry is a duration in microseconds (R51): a
number below 2^DUR_W, at an index below 2^LEN_W. The widths are parameters of the machine (00_scope.md
R8) and entries are only compared, over the natural numbers (R11), so both are numbers (log 11). -/
abbrev Memory := List (Nat × Nat)

/-- What an agent other than the codec does between two steps (70_reset_and_hazards.md R244; log 2). -/
inductive AgentMove where
  /-- No agent moves. -/
  | pause
  /-- The host presents one more operation word, behind those it still holds. -/
  | present (w : OpWord)
  /-- `rst` is driven to this level. -/
  | setRst (b : Bool)
  /-- The time base runs, or stops. -/
  | setTick (b : Bool)
  /-- The capture collaborator hands over a whole new capture. -/
  | capture (entries : List Nat) (ovf : Bool)
  /-- The capture collaborator writes one entry. -/
  | store (index : Nat) (d : Nat)
  /-- The capture collaborator drives `buf_len` and `buf_ovf`. -/
  | declare (len : Nat) (ovf : Bool)
deriving DecidableEq, Repr

/-- The two levels of description (00_scope.md R17): an accepted SEND or DECODE is one step, or it
starts its sequencer, which later steps advance (log 1). -/
inductive Level where
  | operation
  | tick
deriving DecidableEq, Repr

/-- The state. -/
structure State where
  -- registers of the codec (10_state.md R40)
  cw      : Word64            -- CW
  res     : Results
  txBusy  : Bool              -- TX_BUSY
  decBusy : Bool              -- DEC_BUSY
  dec     : DecWork
  tx      : TxWork
  -- output ports that hold a value (R29)
  irOut   : Bool              -- ir_out
  rsp     : Option Response   -- rsp_valid, rsp_status, op_rdata
  -- what has been on the line, newest segment first (00_scope.md R15; log 5)
  line    : List Segment
  -- input ports, and the agents behind them (R29, 70_reset_and_hazards.md R244; log 2)
  rst     : Bool              -- rst
  tick    : Bool              -- tick
  host    : List OpWord       -- op_valid, op_word: the words still to be accepted, in order
  bufLen  : Nat               -- buf_len, below 2^LEN_W (log 11)
  bufOvf  : Bool              -- buf_ovf
  buf     : Memory            -- the Captured Timing Buffer
  agents  : List AgentMove    -- the coming moves, one after each step
  -- which level of description the run uses, and the parameters of the machine
  level   : Level             -- log 1
  par     : Params            -- the open parameters (00_scope.md R8; log 10, log 11)
deriving DecidableEq, Repr

/-- The machine right after reset: 10_state.md R43 for the codec, log 4 for the inputs. -/
def State.reset : State where
  cw      := 0x0000000F3C186929#64
  res     := { ok := false, value := 0, bits := 0, addr := 0, cmd := 0, failCode := 0 }
  txBusy  := false
  decBusy := false
  dec     := { state := .idle, offset := 0, acc := 0, nbits := 0, maxBits := 0, lenQ := 0, ovfQ := false }
  tx      := { state := .idle, timer := 0, sr := 0, bits := 0, frames := 0 }
  irOut   := false
  rsp     := none
  line    := []
  rst     := false
  tick    := true
  host    := []
  bufLen  := 0
  bufOvf  := false
  buf     := []
  agents  := []
  level   := .operation
  par     := Config.defaultParams

end Sys2Proof.Machine
end

