-- ==== Sys2Proof/Machine/Flags.lean ====
section
/-! DEFINITION. The flag-like state (10_state.md R28): RES_OK, TX_BUSY, DEC_BUSY, and what is
computed from them. There are no condition codes. -/

namespace Sys2Proof.Machine

/-- BUSY = TX_BUSY or DEC_BUSY (10_state.md R28). -/
def State.busy (s : State) : Bool := s.txBusy || s.decBusy

/-- `op_ready` = not BUSY (60_exceptions.md R200). -/
def State.opReady (s : State) : Bool := !s.busy

/-- The codec is idle: neither busy flag is set and no reset is asserted. -/
def State.idle (s : State) : Bool := !s.busy && !s.rst

/-- The result registers after a success (42_decoder.md R163). -/
def successResults (acc : Word64) : Results :=
  { ok := true, value := acc, bits := 40, addr := 0, cmd := 0, failCode := 0 }

/-- The result registers after a failure with this code: RES_OK and FAILCODE change, the others stay
(60_exceptions.md R193). -/
def failureResults (code : BitVec 4) (r : Results) : Results :=
  { r with ok := false, failCode := code }

/-- `ir_out` is 1 exactly in HDR_M and BIT_M (41_encoder.md R135). -/
def markState : TxState → Bool
  | .idle  => false
  | .hdrM  => true
  | .hdrS  => false
  | .bitM  => true
  | .bitS  => false
  | .trail => false

end Sys2Proof.Machine
end

