-- ==== Sys2Proof/WellFormed.lean ====
section
/-! DEFINITION. Which instructions are well formed: a reserved selector or operation code is one the
spec reserves, and an operand fits its operand (30_encoding.md R85, R87, R88, R90). -/

namespace Sys2Proof

/-- The least value a field's operand may not have: 256 for the temperature bytes, 2 for the one-bit
fields (30_encoding.md R86, R90). -/
def FieldName.operandBound : FieldName → Nat
  | .tc    => 256
  | .tf    => 256
  | .pwr   => 2
  | .units => 2
  | .flow  => 2

/-- The least number that is no repeat count: RPT_W bits of the 64 data bits of an operation word
(00_scope.md R8, 30_encoding.md R86). -/
def repeatBound (rptW : Nat) : Nat := 2 ^ min rptW 64

/-- Well-formedness on a machine with this RPT_W, one check per operand that has one:
FRD, FWR: a reserved selector is 5 to 15 (R85); RRD: a reserved selector is 6 to 15 (R87);
FWR: the value fits the field, and is not used with a reserved selector (R86, R90);
SEND: the repeat count fits RPT_W (R86, R90);
a reserved operation code is 8 to 15 (R84). -/
def Instr.wf (rptW : Nat) : Instr → Bool
  | .cwrd                  => true
  | .cwwr _                => true
  | .frd (.named _)        => true
  | .frd (.reserved k)     => decide (5 ≤ k.toNat)
  | .fwr (.named f) v      => decide (v.toNat < f.operandBound)
  | .fwr (.reserved k) v   => decide (5 ≤ k.toNat) && decide (v = 0)
  | .twr _ _               => true
  | .send r                => decide (r < repeatBound rptW)
  | .decode                => true
  | .rrd (.named _)        => true
  | .rrd (.reserved k)     => decide (6 ≤ k.toNat)
  | .reservedOpc k         => decide (8 ≤ k.toNat)
  | .pwron                 => true
  | .pwroff                => true
  | .unitc                 => true
  | .unitf                 => true
  | .accept _              => true
  | .hdr                   => true
  | .bit0                  => true
  | .bit1                  => true
  | .trail                 => true
  | .cw40 _                => true

end Sys2Proof
end

