-- ==== Sys2Proof/Decode.lean ====
section
/-! DEFINITION. The decoder, total on every encoding, and the encoder after it. The table has three
formats: operation words of 72 bits (30_encoding.md R83 to R89), command words of 40 bits (R70), and
wire symbols, which are durations (R73). -/

namespace Sys2Proof

/-- What the table encodes an instruction as, by the row's format. -/
inductive Encoding where
  /-- OP72: an operation word (R83). -/
  | op (w : OpWord)
  /-- COMMAND WORD: the forty bits of R70. -/
  | command (p : Payload)
  /-- WIRE: the segments of one symbol (R73). -/
  | wire (segs : List Segment)
deriving DecidableEq, Repr

/-- Why the decoder refuses an encoding. -/
inductive DecodeReject where
  /-- A bit string that is neither 72 nor 40 bits long: all operation words are 72 bits (R89) and a
  command word is 40 (R70). -/
  | wrongLength (nbits : Nat)
  /-- Segments that are not one symbol of the wire code at its nominal durations (R73, R77). -/
  | noSymbol
deriving DecidableEq, Repr

/-! ## The decoder -/

/-- opc = op_word[71:68] (R83). -/
def opcOf (w : OpWord) : BitVec 4 := w.extractLsb' 68 4

/-- sel = op_word[67:64] (R83). -/
def selOf (w : OpWord) : BitVec 4 := w.extractLsb' 64 4

/-- data = op_word[63:0] (R83). -/
def dataOf (w : OpWord) : Word64 := w.extractLsb' 0 64

/-- The field selector codes (R85). -/
def fieldSelector (k : BitVec 4) : Selector FieldName :=
  match k.toNat with
  | 0 => .named .tc
  | 1 => .named .tf
  | 2 => .named .pwr
  | 3 => .named .units
  | 4 => .named .flow
  | _ => .reserved k

/-- The result register selector codes (R87). -/
def resultSelector (k : BitVec 4) : Selector ResultName :=
  match k.toNat with
  | 0 => .named .value
  | 1 => .named .bits
  | 2 => .named .addr
  | 3 => .named .cmd
  | 4 => .named .ok
  | 5 => .named .fail
  | _ => .reserved k

/-- The data bits FWR uses: data[7:0] for TC and TF, data[0] for PWR, UNITS and FLOW; none with a
reserved selector (R86). -/
def fwrValue (f : Selector FieldName) (data : Word64) : BitVec 8 :=
  match f with
  | .named .tc    => data.extractLsb' 0 8
  | .named .tf    => data.extractLsb' 0 8
  | .named .pwr   => (data.extractLsb' 0 1).setWidth 8
  | .named .units => (data.extractLsb' 0 1).setWidth 8
  | .named .flow  => (data.extractLsb' 0 1).setWidth 8
  | .reserved _   => 0

/-- The operation an operation word asks for on a machine with this RPT_W (R84, R86, R88). Ignored
bits are dropped; a reserved code or selector is kept as such, for the operation to refuse (log 13).
R is the low RPT_W bits of data, data[7:0] at the spec's RPT_W = 8. -/
def decodeOp (rptW : Nat) (w : OpWord) : Instr :=
  match (opcOf w).toNat with
  | 0 => .cwrd
  | 1 => .cwwr (dataOf w)
  | 2 => .frd (fieldSelector (selOf w))
  | 3 => .fwr (fieldSelector (selOf w)) (fwrValue (fieldSelector (selOf w)) (dataOf w))
  | 4 => .twr ((dataOf w).extractLsb' 8 8) ((dataOf w).extractLsb' 0 8)
  | 5 => .send ((dataOf w).toNat % repeatBound rptW)
  | 6 => .decode
  | 7 => .rrd (resultSelector (selOf w))
  | _ => .reservedOpc (opcOf w)

/-- The fields of a 40-bit command word (R70). -/
def unpackCommand (p : Payload) : CommandWord where
  rHigh := p.extractLsb' 22 18
  flow  := p.extractLsb' 21 1
  units := p.extractLsb' 20 1
  pwr   := p.extractLsb' 19 1
  rLow  := p.extractLsb' 16 3
  tf    := p.extractLsb' 8 8
  tc    := p.extractLsb' 0 8

/-- The segments of each wire symbol (R73). -/
def hdrSymbol : List Segment := [⟨true, Config.hdrMark⟩, ⟨false, Config.hdrSpace⟩]
/-- The two data symbols: the bit is carried by the mark alone (R73). -/
def bitSymbol (b : Bool) : List Segment :=
  [⟨true, if b then Config.bit1Mark else Config.bit0Mark⟩, ⟨false, Config.bitSpace⟩]
/-- TRAIL is a space only (R73). -/
def trailSymbol : List Segment := [⟨false, Config.trailSpace⟩]

/-- The symbol whose nominal segments these are (R73). Durations measured by a capture are the
decoder operation's business (R76, Machine/Decoder.lean). -/
def decodeSymbol (segs : List Segment) : Except DecodeReject Instr :=
  if segs = hdrSymbol then .ok .hdr
  else if segs = bitSymbol false then .ok .bit0
  else if segs = bitSymbol true then .ok .bit1
  else if segs = trailSymbol then .ok .trail
  else .error .noSymbol

/-- The decoder over all three formats. -/
def decodeEncoding (rptW : Nat) : Encoding → Except DecodeReject Instr
  | .op w      => .ok (decodeOp rptW w)
  | .command p => .ok (.cw40 (unpackCommand p))
  | .wire segs => decodeSymbol segs

/-- A string of `nbits` bits, read as the number `w`, by its length: 72 bits are an operation word,
40 bits a command word, and no other length is one (R70, R89; log 18). -/
def decodeBits (rptW nbits w : Nat) : Except DecodeReject Instr :=
  match nbits with
  | 72 => decodeEncoding rptW (.op (BitVec.ofNat 72 w))
  | 40 => decodeEncoding rptW (.command (BitVec.ofNat 40 w))
  | n  => .error (.wrongLength n)

/-- The instruction the decoder reads from a word numbered as spec/opcode_table.json numbers it: one
word a row, bit 0 least significant, which is the numbering of `op_word` itself (R10, R83), at the
spec's RPT_W (00_scope.md R8). -/
def decodeTableWord (nbits w : Nat) : Option Instr :=
  match decodeBits Config.defaultParams.rptW nbits w with
  | .ok i    => some i
  | .error _ => none

/-! ## The encoder -/

/-- An operation word from its three parts (R83). -/
def opWord (opc sel : BitVec 4) (data : Word64) : OpWord := opc ++ sel ++ data

/-- The code of a field (R85). -/
def fieldCode : FieldName → BitVec 4
  | .tc    => 0
  | .tf    => 1
  | .pwr   => 2
  | .units => 3
  | .flow  => 4

/-- The code of a result register (R87). -/
def resultCode : ResultName → BitVec 4
  | .value => 0
  | .bits  => 1
  | .addr  => 2
  | .cmd   => 3
  | .ok    => 4
  | .fail  => 5

/-- The code of a field selector (R85). -/
def fieldSelectorCode : Selector FieldName → BitVec 4
  | .named f    => fieldCode f
  | .reserved k => k

/-- The code of a result register selector (R87). -/
def resultSelectorCode : Selector ResultName → BitVec 4
  | .named q    => resultCode q
  | .reserved k => k

/-- The forty bits of a command word (R70). -/
def packCommand (c : CommandWord) : Payload :=
  c.rHigh ++ c.flow ++ c.units ++ c.pwr ++ c.rLow ++ c.tf ++ c.tc

/-- The encoding of an instruction, ignored bits written 0 (R86, R90, R91, R73, R70). -/
def encode : Instr → Encoding
  | .cwrd          => .op (opWord 0 0 0)
  | .cwwr v        => .op (opWord 1 0 v)
  | .frd f         => .op (opWord 2 (fieldSelectorCode f) 0)
  | .fwr f v       => .op (opWord 3 (fieldSelectorCode f) (v.setWidth 64))
  | .twr tf tc     => .op (opWord 4 0 ((tf ++ tc).setWidth 64))
  | .send r        => .op (opWord 5 0 (BitVec.ofNat 64 r))
  | .decode        => .op (opWord 6 0 0)
  | .rrd q         => .op (opWord 7 (resultSelectorCode q) 0)
  | .reservedOpc k => .op (opWord k 0 0)
  | .pwron         => .op (opWord 3 2 1)
  | .pwroff        => .op (opWord 3 2 0)
  | .unitc         => .op (opWord 3 3 1)
  | .unitf         => .op (opWord 3 3 0)
  | .accept v      => .op (opWord 1 0 v)
  | .hdr           => .wire hdrSymbol
  | .bit0          => .wire (bitSymbol false)
  | .bit1          => .wire (bitSymbol true)
  | .trail         => .wire trailSymbol
  | .cw40 c        => .command (packCommand c)

/-- The instruction a spelling stands for: a pseudo-operation is the operation it expands to, every
other instruction is itself (R91). -/
def canonical : Instr → Instr
  | .cwrd          => .cwrd
  | .cwwr v        => .cwwr v
  | .frd f         => .frd f
  | .fwr f v       => .fwr f v
  | .twr tf tc     => .twr tf tc
  | .send r        => .send r
  | .decode        => .decode
  | .rrd q         => .rrd q
  | .reservedOpc k => .reservedOpc k
  | .pwron         => .fwr (.named .pwr) 1
  | .pwroff        => .fwr (.named .pwr) 0
  | .unitc         => .fwr (.named .units) 1
  | .unitf         => .fwr (.named .units) 0
  | .accept v      => .cwwr v
  | .hdr           => .hdr
  | .bit0          => .bit0
  | .bit1          => .bit1
  | .trail         => .trail
  | .cw40 c        => .cw40 c

/-! ## The assembler -/

/-- A number as an operand of `n` bits; none where it does not fit, an assembler error (R90). -/
def fits (n v : Nat) : Option (BitVec n) := if v < 2 ^ n then some (BitVec.ofNat n v) else none

/-- The instruction a line stands for on a machine with this RPT_W; none is an assembler error: "A
value that does not fit its operand" (R90). -/
def assemble (rptW : Nat) : AsmLine → Option Instr
  | .cwrd      => some .cwrd
  | .cwwr v    => (fits 64 v).map .cwwr
  | .frd f     => some (.frd (.named f))
  | .fwr f v   => if v < f.operandBound then (fits 8 v).map (.fwr (.named f)) else none
  | .twr tf tc => (fits 8 tf).bind (fun a => (fits 8 tc).map (fun b => .twr a b))
  | .send r    => if r < repeatBound rptW then some (.send r) else none
  | .decode    => some .decode
  | .rrd q     => some (.rrd (.named q))
  | .pwron     => some .pwron
  | .pwroff    => some .pwroff
  | .unitc     => some .unitc
  | .unitf     => some .unitf
  | .accept v  => (fits 64 v).map .accept

end Sys2Proof
end

