-- ==== Sys2Proof/Machine/Operands.lean ====
section
/-! DEFINITION. Operand assembly: the named fields of the command word (30_encoding.md R71), the
result registers by name (R87), and the payload (10_state.md R37). -/

namespace Sys2Proof.Machine

/-- S(f), the shift of a field (10_state.md R21, 40_command_word_ops.md R100). -/
def fieldShift : FieldName → Nat
  | .tc    => 0
  | .tf    => 8
  | .pwr   => 19
  | .units => 20
  | .flow  => 21

/-- W(f), the width of a field (10_state.md R21, 40_command_word_ops.md R100). -/
def fieldWidth : FieldName → Nat
  | .tc    => 8
  | .tf    => 8
  | .pwr   => 1
  | .units => 1
  | .flow  => 1

/-- MASK(w) = 2^w - 1, at 64 bits (30_encoding.md R71). -/
def mask (w : Nat) : Word64 := BitVec.ofNat 64 (2 ^ w - 1)

/-- FieldRead(CW, s, w), zero-extended to 64 bits (30_encoding.md R71, 40_command_word_ops.md R103). -/
def fieldRead (cw : Word64) (shift width : Nat) : Word64 := (cw >>> shift) &&& mask width

/-- FieldWrite(CW, s, w, v) (30_encoding.md R71). -/
def fieldWrite (cw : Word64) (shift width : Nat) (v : Word64) : Word64 :=
  (cw &&& ~~~(mask width <<< shift)) ||| ((v &&& mask width) <<< shift)

/-- The named field of a command word. -/
def readField (f : FieldName) (cw : Word64) : Word64 := fieldRead cw (fieldShift f) (fieldWidth f)

/-- The command word with one named field written. -/
def writeField (f : FieldName) (v : Word64) (cw : Word64) : Word64 :=
  fieldWrite cw (fieldShift f) (fieldWidth f) v

/-- The masked write of both temperature fields (40_command_word_ops.md R106). -/
def writeTemperatures (tf tc : BitVec 8) (cw : Word64) : Word64 :=
  (cw &&& ~~~0xFFFF#64) ||| (tf ++ tc).setWidth 64

/-- The result register RRD names, zero-extended to 64 bits (40_command_word_ops.md R107). RES_ADDR
has ADDR_W bits and RES_CMD has CMD_W (10_state.md R26). -/
def readResult (p : Params) (q : ResultName) (r : Results) : Word64 :=
  match q with
  | .value => r.value
  | .bits  => r.bits.setWidth 64
  | .addr  => BitVec.ofNat 64 (r.addr % 2 ^ p.addrW)
  | .cmd   => BitVec.ofNat 64 (r.cmd % 2 ^ p.cmdW)
  | .ok    => if r.ok then 1 else 0
  | .fail  => r.failCode.setWidth 64

/-- The forty transmitted bits CW[39:0] (41_encoder.md R124). -/
def payloadOf (cw : Word64) : Payload := cw.setWidth 40

/-- The numbers of the decode failure causes (60_exceptions.md R191). -/
def failureCode : DecodeFailure → BitVec 4
  | .short       => 1
  | .hdrMark     => 2
  | .hdrSpace    => 3
  | .bitMark     => 4
  | .space       => 5
  | .resyncMark  => 6
  | .resyncSpace => 7
  | .overrun     => 8
  | .budget      => 9
  | .overflow    => 10

/-- The numbers of `rsp_status` (60_exceptions.md R201). -/
def statusCode : Status → BitVec 2
  | .ok      => 0
  | .fail    => 1
  | .refused => 2

end Sys2Proof.Machine
end

