-- ==== Sys2Proof/Machine/Ops.lean ====
section
/-! DEFINITION. The named operations the meanings are made of: the buffer, MATCH, the response,
the two exceptional outcomes, the output line, and reset. -/

namespace Sys2Proof.Machine

/-! ## The Captured Timing Buffer -/

/-- What an index that is not listed reads as. DESIGN CHOICE, log 3. -/
def unlistedEntry : Nat := 0

/-- BufRead(i) (00_scope.md R13). No side effect, and no check: the decoder tests the index first
(42_decoder.md R158). -/
def Memory.read : Memory → Nat → Nat
  | [], _ => unlistedEntry
  | (k, d) :: rest, i => if k = i then d else Memory.read rest i

/-- The capture collaborator's write of one entry. The codec never writes (00_scope.md R13). -/
def Memory.write : Memory → Nat → Nat → Memory
  | [], i, d => if d = unlistedEntry then [] else [(i, d)]
  | (k, e) :: rest, i, d =>
    if i < k then
      if d = unlistedEntry then (k, e) :: rest else (i, d) :: (k, e) :: rest
    else if i = k then
      if d = unlistedEntry then rest else (i, d) :: rest
    else (k, e) :: Memory.write rest i d

/-- The buffer that holds these entries from index `i` on, and nothing else. -/
def Memory.ofEntries : Nat → List Nat → Memory
  | _, [] => []
  | i, d :: rest =>
    if d = unlistedEntry then Memory.ofEntries (i + 1) rest
    else (i, d) :: Memory.ofEntries (i + 1) rest

/-- Every listed index is at least `lo` and has LEN_W bits, they rise strictly, and every entry has
DUR_W bits and is not what an unlisted index reads as. -/
def Memory.wfFrom (p : Params) : Nat → Memory → Bool
  | _, [] => true
  | lo, (k, d) :: rest =>
    decide (lo ≤ k) && decide (k < 2 ^ p.lenW) && decide (d < 2 ^ p.durW) &&
      decide (d ≠ unlistedEntry) && Memory.wfFrom p (k + 1) rest

/-- The canonical form of the buffer of a machine with these parameters. -/
def Memory.wf (p : Params) (m : Memory) : Bool := Memory.wfFrom p 0 m

/-! ## MATCH and the two classifications -/

/-- MATCH(m, n) with TOL_PCT = `tol`, both bounds inclusive (00_scope.md R12). -/
def matchDur (tol : Nat) (m : Nat) (n : Nat) : Bool :=
  decide (n * (100 - tol) ≤ m * 100) && decide (m * 100 ≤ n * (100 + tol))

/-- A data mark as a bit: 720 is tested first, then 2400 (30_encoding.md R76, 42_decoder.md R160). -/
def classifyMark (tol : Nat) (m : Nat) : Option Bool :=
  if matchDur tol m Config.bit0Mark then some false
  else if matchDur tol m Config.bit1Mark then some true
  else none

/-- What the space after a data mark is: `some true` a repeat boundary, `some false` an inter-bit
space; 2700 is tested first, then 840 (30_encoding.md R76). -/
def classifySpace (tol : Nat) (d : Nat) : Option Bool :=
  if matchDur tol d Config.rptGap then some true
  else if matchDur tol d Config.bitSpace then some false
  else none

/-! ## The response and the two exceptional outcomes -/

/-- The response to an operation (60_exceptions.md R201). -/
def respond (st : Status) (rdata : Word64) (s : State) : State :=
  { s with rsp := some { status := st, rdata := rdata } }

/-- No response is given in this step (60_exceptions.md R201: `rsp_valid` = 1 for one step). -/
def noResponse (s : State) : State := { s with rsp := none }

/-- `raise Refuse(k)`: no state changes, the response is REFUSED with `op_rdata` = k
(60_exceptions.md R194). -/
def refuse (k : Word64) (s : State) : State := respond .refused k s

/-- `raise DecodeFail(c)` (60_exceptions.md R193): RES_OK <- 0, FAILCODE <- c, DEC_BUSY <- 0, the
response is FAIL with `op_rdata` = 0, and the working registers stay as they are. -/
def decodeFail (c : DecodeFailure) (s : State) : State :=
  respond .fail 0
    { s with
      res := failureResults (failureCode c) s.res
      decBusy := false
      dec := { s.dec with state := .idle } }

/-- Success of a DECODE (42_decoder.md R163). -/
def decodeOk (s : State) : State :=
  respond .ok 0
    { s with
      res := successResults s.dec.acc
      decBusy := false
      dec := { s.dec with state := .idle } }

/-! ## The output line -/

/-- The level the line is left at by these segments, from the level `b` before them. -/
def lastLevel (b : Bool) : List Segment → Bool
  | [] => b
  | g :: rest => lastLevel g.level rest

/-- `Emit` for each of these segments in order (00_scope.md R15). -/
def emit (segs : List Segment) (s : State) : State :=
  { s with line := segs.reverse ++ s.line, irOut := lastLevel s.irOut segs }

/-- The output trace so far, in order (00_scope.md R15, R18 (b)). -/
def State.trace (s : State) : List Segment := s.line.reverse

/-- A segment of this level starts on the line; `lengthen` counts its ticks (log 5). -/
def startSegment (level : Bool) (s : State) : State :=
  { s with line := ⟨level, 0⟩ :: s.line, irOut := level }

/-- One tick of the segment in progress, `us` = TICK_US microseconds (00_scope.md R8, R15). -/
def lengthen (us : Nat) : List Segment → List Segment
  | [] => []
  | g :: rest => ⟨g.level, g.dur + us⟩ :: rest

/-! ## Command word -/

/-- CW <- v. -/
def setCw (v : Word64) (s : State) : State := { s with cw := v }

/-- The masked write of one named field, and its response (40_command_word_ops.md R104). -/
def writeFieldOp (f : FieldName) (v : Word64) (s : State) : State :=
  respond .ok 0 (setCw (writeField f v s.cw) s)

/-- The whole-word replace, and its response (40_command_word_ops.md R102). -/
def replaceWordOp (v : Word64) (s : State) : State := respond .ok 0 (setCw v s)

/-! ## Reset -/

/-- A step in which `rst` = 1: every piece of the codec's state takes its reset value and no response
is given (70_reset_and_hazards.md R220, R221). The inputs, the agents, the parameters of the machine
and what has already been on the line are no state of the codec (10_state.md R40) and stay. DESIGN
CHOICE, log 5: a tick in this very step is not counted in the segment that is cut short ("up to that
instant", R221, does not say), so a segment just begun stays in the history with duration 0. -/
def resetCodec (s : State) : State :=
  { State.reset with
    line   := s.line
    rst    := s.rst
    tick   := s.tick
    host   := s.host
    bufLen := s.bufLen
    bufOvf := s.bufOvf
    buf    := s.buf
    agents := s.agents
    level  := s.level
    par    := s.par }

end Sys2Proof.Machine
end

