-- ==== Sys2Proof/Machine/Agents.lean ====
section
/-! DEFINITION. The agents other than the codec (00_scope.md R5, 70_reset_and_hazards.md R244), and
the ideal capture of an output trace (20_memory.md R54). -/

namespace Sys2Proof.Machine

/-- A duration as an entry of DUR_W bits, saturated (20_memory.md R51; log 20). -/
def entryOf (durW d : Nat) : Nat := min d (2 ^ durW - 1)

/-- A LEN_W-bit index or length (20_memory.md R51; log 20). -/
def lenBits (p : Params) (n : Nat) : Nat := n % 2 ^ p.lenW

/-- The entries of a capture that can be declared: as many as LEN_W bits can count, each of DUR_W bits
(20_memory.md R51, R60; log 20). -/
def declarable (p : Params) (entries : List Nat) : List Nat :=
  (entries.take (2 ^ p.lenW - 1)).map (entryOf p.durW)

/-- The state after an agent's move. -/
def applyMove (m : AgentMove) (s : State) : State :=
  match m with
  | .pause             => s
  | .present w         => { s with host := s.host ++ [w] }
  | .setRst b          => { s with rst := b }
  | .setTick b         => { s with tick := b }
  | .capture es ovf    =>
    { s with
      buf := Memory.ofEntries 0 (declarable s.par es)
      bufLen := (declarable s.par es).length
      bufOvf := ovf }
  | .store i d         => { s with buf := s.buf.write (lenBits s.par i) (entryOf s.par.durW d) }
  | .declare len ovf   => { s with bufLen := lenBits s.par len, bufOvf := ovf }

/-- The agents take their next move, if there is one, after a step of the codec (log 2). -/
def agentsMove (s : State) : State :=
  match s.agents with
  | []        => s
  | m :: rest => applyMove m { s with agents := rest }

/-! ## Capture -/

/-- Successive segments of equal level become one of the summed duration (20_memory.md R54 (1)). -/
def mergeSegments : List Segment → List Segment
  | [] => []
  | g :: rest =>
    match mergeSegments rest with
    | [] => [g]
    | h :: more => if g.level = h.level then ⟨g.level, g.dur + h.dur⟩ :: more else g :: h :: more

/-- A leading space is dropped (20_memory.md R54 (2)). -/
def dropLeadingSpace : List Segment → List Segment
  | [] => []
  | g :: rest => if g.level then g :: rest else rest

/-- Capture(trace), in entries of DUR_W bits (20_memory.md R54). -/
def captureOf (durW : Nat) (trace : List Segment) : List Nat :=
  (dropLeadingSpace (mergeSegments trace)).map (fun g => entryOf durW g.dur)

end Sys2Proof.Machine
end

