-- ==== Sys2Proof/Machine/CommandWord.lean ====
section
/-! DEFINITION. The command word operations and the result read (40_command_word_ops.md), and the
refusal of a reserved operation code (60_exceptions.md R194). -/

namespace Sys2Proof.Machine

/-- CWRD (R101): op_rdata <- CW. -/
def execCwrd (s : State) : Host.Outcome State Fault Refusal := .next (respond .ok s.cw s)

/-- CWWR v (R102): CW <- v. -/
def execCwwr (v : Word64) (s : State) : Host.Outcome State Fault Refusal := .next (replaceWordOp v s)

/-- FRD f (R103): op_rdata <- the field, zero-extended; a reserved selector is refused with 2. -/
def execFrd (f : Selector FieldName) (s : State) : Host.Outcome State Fault Refusal :=
  match f with
  | .named f    => .next (respond .ok (readField f s.cw) s)
  | .reserved _ => .next (refuse 2 s)

/-- FWR f, v (R104): masked write of the field; a reserved selector is refused with 2. -/
def execFwr (f : Selector FieldName) (v : BitVec 8) (s : State) : Host.Outcome State Fault Refusal :=
  match f with
  | .named f    => .next (writeFieldOp f (v.setWidth 64) s)
  | .reserved _ => .next (refuse 2 s)

/-- TWR tf, tc (R106): masked write of both temperature fields. -/
def execTwr (tf tc : BitVec 8) (s : State) : Host.Outcome State Fault Refusal :=
  .next (respond .ok 0 (setCw (writeTemperatures tf tc s.cw) s))

/-- RRD q (R107): op_rdata <- the result register; a reserved selector is refused with 2. -/
def execRrd (q : Selector ResultName) (s : State) : Host.Outcome State Fault Refusal :=
  match q with
  | .named q    => .next (respond .ok (readResult s.par q s.res) s)
  | .reserved _ => .next (refuse 2 s)

/-- A reserved operation code (R194): refused with 1. -/
def execReservedOpc (_opc : BitVec 4) (s : State) : Host.Outcome State Fault Refusal :=
  .next (refuse 1 s)

end Sys2Proof.Machine
end

