-- ==== Sys2Proof/Machine/Decoder.lean ====
section
/-! DEFINITION. The decoder (42_decoder.md): DECODE at the operation level, rule R167 with its
separate rules R152 to R166, and the tick-level sequencer of R175 and R176. -/

namespace Sys2Proof.Machine

/-! ## Steps shared by the two levels -/

/-- MAXBITS <- min(64, (LEN - 2) div 2) (R155). -/
def bitBudget (len : Nat) : BitVec 7 := BitVec.ofNat 7 (min Config.accWidth ((len - 2) / 2))

/-- OFFSET <- 0, ACC <- 0, NBITS <- 0 and the bit budget (R154, R155). -/
def initWork (w : DecWork) : DecWork :=
  { w with offset := 0, acc := 0, nbits := 0, maxBits := bitBudget w.lenQ }

/-- ACC <- ACC << 1, before the mark is classified (R159). -/
def shiftAcc (w : DecWork) : DecWork := { w with acc := w.acc <<< 1 }

/-- A data bit enters at ACC[0] after the shift; OFFSET and NBITS count it (R159). -/
def pushBit (b : Bool) (w : DecWork) : DecWork :=
  { w with
    acc := (w.acc <<< 1) ||| (if b then 1 else 0)
    offset := w.offset + 1
    nbits := w.nbits + 1 }

/-- The bits so far are discarded (R164). -/
def discardBits (w : DecWork) : DecWork := { w with acc := 0, nbits := 0 }

/-- OFFSET <- OFFSET + n. -/
def advance (n : Nat) (w : DecWork) : DecWork := { w with offset := w.offset + n }

/-- The index `i` is past the sampled length (R158). -/
def pastEnd (w : DecWork) (i : Nat) : Bool := decide (w.lenQ ≤ i)

/-- Forty bits and nothing left but the frame's own closing space (R162). -/
def cleanEnd (w : DecWork) : Bool := decide (w.nbits = 40) && pastEnd w (w.offset + 1)

/-- The loop test NBITS < MAXBITS fails (R159, R166). -/
def budgetSpent (w : DecWork) : Bool := decide (w.maxBits.toNat ≤ w.nbits.toNat)

/-! ## Operation level -/

/-- How a DECODE ends. -/
inductive DecodeEnd where
  | success
  | failure (c : DecodeFailure)
deriving DecidableEq, Repr

/-- The bit loop (R159 to R166). `fuel` bounds the passes; `decodeBuffer` gives it the bound of R168,
so it does not run out (log 15). -/
def decodeLoop (tol : Nat) (buf : Memory) : Nat → DecWork → DecodeEnd × DecWork
  | 0, w => (.failure .budget, w)
  | fuel + 1, w =>
    if budgetSpent w then (.failure .budget, w)                                  -- R166
    else if pastEnd w w.offset then (.failure .overrun, w)                 -- R158
    else
      match classifyMark tol (buf.read w.offset) with                      -- R159
      | none => (.failure .bitMark, shiftAcc w)
      | some b =>
        let w1 := pushBit b w
        if cleanEnd w1 then (.success, w1)                                       -- R162
        else if pastEnd w1 w1.offset then (.failure .overrun, w1)          -- R158
        else
          match classifySpace tol (buf.read w1.offset) with
          | some true =>                                                         -- R164
            let w2 := discardBits w1
            if pastEnd w2 (w2.offset + 1)
                || !matchDur tol (buf.read (w2.offset + 1)) Config.hdrMark then
              (.failure .resyncMark, w2)
            else if pastEnd w2 (w2.offset + 2)
                || !matchDur tol (buf.read (w2.offset + 2)) Config.hdrSpace then
              (.failure .resyncSpace, w2)
            else decodeLoop tol buf fuel (advance 3 w2)
          | some false => decodeLoop tol buf fuel (advance 1 w1)                 -- R165
          | none => (.failure .space, w1)

/-- The whole algorithm from the sampled LEN_Q and OVF_Q (R167). The offset after a good header mark
is 1 (R156), which governs over R167's later assignment (log 14). -/
def decodeBuffer (tol : Nat) (buf : Memory) (w : DecWork) : DecodeEnd × DecWork :=
  if w.ovfQ then (.failure .overflow, w)                                         -- R152
  else if w.lenQ < Config.minLen then (.failure .short, w)                 -- R153
  else
    let w0 := initWork w                                                         -- R154, R155
    if !matchDur tol (buf.read 0) Config.hdrMark then (.failure .hdrMark, w0)    -- R156
    else
      let w1 := advance 1 w0
      if !matchDur tol (buf.read 1) Config.hdrSpace then (.failure .hdrSpace, w1) -- R157
      else decodeLoop tol buf (w.lenQ / 2 + 1) (advance 1 w1)

/-- LEN and OVF are sampled at acceptance (R150, R176). -/
def sampleInputs (s : State) : DecWork := { s.dec with lenQ := s.bufLen, ovfQ := s.bufOvf }

/-- The end of a DECODE: R163 or R193. -/
def finishDecode (e : DecodeEnd) (s : State) : State :=
  match e with
  | .success   => decodeOk s
  | .failure c => decodeFail c s

/-- DECODE (R150, R167). CW is not written (R172). -/
def execDecode (s : State) : Host.Outcome State Fault Refusal :=
  .next (finishDecode (decodeBuffer s.par.tolPct s.buf (sampleInputs s)).1
    { s with dec := (decodeBuffer s.par.tolPct s.buf (sampleInputs s)).2 })

/-! ## Tick level -/

/-- Acceptance of DECODE (R176). No response yet. -/
def startDecode (s : State) : State :=
  { s with decBusy := true, dec := { sampleInputs s with state := .check } }

/-- The sequencer goes on in this state with these working registers. -/
def goTo (st : DecState) (w : DecWork) (s : State) : State := { s with dec := { w with state := st } }

/-- The decode fails with these working registers left behind. -/
def failWith (c : DecodeFailure) (w : DecWork) (s : State) : State := decodeFail c { s with dec := w }

/-- One step of the sequencer, at most one buffer read (R175, R176). -/
def advanceDecode (s : State) : State :=
  let w := s.dec
  match w.state with
  | .idle   => s
  | .check  =>
    if w.ovfQ then failWith .overflow w s
    else if w.lenQ < Config.minLen then failWith .short w s
    else goTo .hdrM (initWork w) s
  | .hdrM   =>
    if matchDur s.par.tolPct (s.buf.read 0) Config.hdrMark then goTo .hdrS (advance 1 w) s
    else failWith .hdrMark w s
  | .hdrS   =>
    if matchDur s.par.tolPct (s.buf.read 1) Config.hdrSpace then goTo .bitM (advance 1 w) s
    else failWith .hdrSpace w s
  | .bitM   =>
    if budgetSpent w then failWith .budget w s
    else if pastEnd w w.offset then failWith .overrun w s
    else
      match classifyMark s.par.tolPct (s.buf.read w.offset) with
      | none   => failWith .bitMark (shiftAcc w) s
      | some b => goTo .afterM (pushBit b w) s
  | .afterM =>
    if cleanEnd w then decodeOk s
    else if pastEnd w w.offset then failWith .overrun w s
    else
      match classifySpace s.par.tolPct (s.buf.read w.offset) with
      | some true  => goTo .rsyM (discardBits w) s
      | some false => goTo .bitM (advance 1 w) s
      | none       => failWith .space w s
  | .rsyM   =>
    if pastEnd w (w.offset + 1)
        || !matchDur s.par.tolPct (s.buf.read (w.offset + 1)) Config.hdrMark then
      failWith .resyncMark w s
    else goTo .rsyS w s
  | .rsyS   =>
    if pastEnd w (w.offset + 2)
        || !matchDur s.par.tolPct (s.buf.read (w.offset + 2)) Config.hdrSpace then
      failWith .resyncSpace w s
    else goTo .bitM (advance 3 w) s

/-- One step of a DECODE in progress. The decoder does not use `tick` (R175). -/
def stepDecode (s : State) : State := advanceDecode (noResponse s)

end Sys2Proof.Machine
end

