-- ==== Sys2Proof/Machine/Encoder.lean ====
section
/-! DEFINITION. The encoder (41_encoder.md): SEND at the operation level, the emission of each wire
symbol it is made of, and the tick-level sequencer. -/

namespace Sys2Proof.Machine

/-! ## Operation level -/

/-- The data symbols of bits k - 1 down to 0 (R126). -/
def dataSegments : Nat → Payload → List Segment
  | 0, _ => []
  | k + 1, p => bitSymbol (p.getLsbD k) ++ dataSegments k p

/-- One frame: HDR, B39 to B0, TRAIL (R125 to R127, 30_encoding.md R74). -/
def frameSegments (p : Payload) : List Segment :=
  hdrSymbol ++ dataSegments Config.frameBits p ++ trailSymbol

/-- So many frames back to back (R128). -/
def framesSegments : Nat → Payload → List Segment
  | 0, _ => []
  | n + 1, p => frameSegments p ++ framesSegments n p

/-- Trace(P, R) (R130). -/
def sendTrace (p : Payload) (r : Nat) : List Segment := framesSegments (r + 1) p

/-- The encoder's working registers after a SEND: what its sequencer leaves (R139, R141; log 7). -/
def idleTx : TxWork := { state := .idle, timer := 0, sr := 0, bits := 0, frames := 0 }

/-- SEND r (R120, R130, R134). -/
def execSend (r : Nat) (s : State) : Host.Outcome State Fault Refusal :=
  .next (respond .ok 0
    { emit (sendTrace (payloadOf s.cw) r) s with txBusy := false, tx := idleTx })

/-! ## The wire symbols as the encoder emits them (30_encoding.md R73; log 9) -/

/-- HDR (R125). -/
def execHdr (s : State) : Host.Outcome State Fault Refusal := .next (emit hdrSymbol s)

/-- BIT0 (R126). -/
def execBit0 (s : State) : Host.Outcome State Fault Refusal := .next (emit (bitSymbol false) s)

/-- BIT1 (R126). -/
def execBit1 (s : State) : Host.Outcome State Fault Refusal := .next (emit (bitSymbol true) s)

/-- TRAIL (R127). -/
def execTrail (s : State) : Host.Outcome State Fault Refusal := .next (emit trailSymbol s)

/-- CW40: the forty data symbols of a command word, most significant bit first (R126,
30_encoding.md R70). -/
def execCw40 (w : CommandWord) (s : State) : Host.Outcome State Fault Refusal :=
  .next (emit (dataSegments Config.frameBits (packCommand w)) s)

/-! ## Tick level -/

/-- TX_TIMER as loaded for a segment of d microseconds: its d / TICK_US ticks (00_scope.md R15), d
itself at the spec's TICK_US = 1 (R135). -/
def timerFor (tickUs d : Nat) : BitVec 13 := BitVec.ofNat 13 (d / tickUs)

/-- The next segment of the sequencer: state, level and timer. -/
def enterSegment (st : TxState) (d : Nat) (s : State) : State :=
  startSegment (markState st) { s with tx := { s.tx with state := st, timer := timerFor s.par.tickUs d } }

/-- TX_SR <- CW[39:0], TX_BITS <- 40, and the header mark (R136, R141). -/
def startFrame (s : State) : State :=
  enterSegment .hdrM Config.hdrMark
    { s with tx := { s.tx with sr := payloadOf s.cw, bits := 40 } }

/-- Acceptance of SEND r (R123, R136). No response yet. -/
def startSend (r : Nat) (s : State) : State :=
  startFrame { s with txBusy := true, tx := { s.tx with frames := r + 1 } }

/-- BIT_M for the bit in TX_SR[39] (R138, R140). -/
def startBit (s : State) : State :=
  enterSegment .bitM (if s.tx.sr.getLsbD 39 then Config.bit1Mark else Config.bit0Mark) s

/-- What follows the segment that has just ended, by TX_STATE (R137 to R141). -/
def endSegment (s : State) : State :=
  match s.tx.state with
  | .idle  => s
  | .hdrM  => enterSegment .hdrS Config.hdrSpace s
  | .hdrS  => startBit s
  | .bitM  =>
    enterSegment .bitS Config.bitSpace
      { s with tx := { s.tx with sr := s.tx.sr <<< 1, bits := s.tx.bits - 1 } }
  | .bitS  => if s.tx.bits = 0 then enterSegment .trail Config.trailSpace s else startBit s
  | .trail =>
    if s.tx.frames - 1 = 0 then
      respond .ok 0
        { s with
          tx := { s.tx with frames := s.tx.frames - 1, state := .idle }
          txBusy := false }
    else startFrame { s with tx := { s.tx with frames := s.tx.frames - 1 } }

/-- One tick: TX_TIMER <- TX_TIMER - 1, and the transition in the same tick when it goes from 1 to 0
(R135). Ticks are not counted in IDLE. -/
def countTick (s : State) : State :=
  if s.tx.state = .idle then s
  else if s.tx.timer = 1 then
    endSegment { s with line := lengthen s.par.tickUs s.line, tx := { s.tx with timer := s.tx.timer - 1 } }
  else { s with line := lengthen s.par.tickUs s.line, tx := { s.tx with timer := s.tx.timer - 1 } }

/-- One step of a SEND in progress: a tick of the time base, or nothing at all while it is stopped
(70_reset_and_hazards.md R244, U16; log 16). -/
def stepSend (s : State) : State :=
  if s.tick then countTick (noResponse s) else noResponse s

end Sys2Proof.Machine
end

