-- ==== Sys2Proof/Machine/Pseudo.lean ====
section
/-! DEFINITION. The pseudo-operations (30_encoding.md R91): each is one FWR or CWWR. -/

namespace Sys2Proof.Machine

/-- PWRON = FWR PWR, 1. -/
def execPwron (s : State) : Host.Outcome State Fault Refusal := .next (writeFieldOp .pwr 1 s)

/-- PWROFF = FWR PWR, 0. -/
def execPwroff (s : State) : Host.Outcome State Fault Refusal := .next (writeFieldOp .pwr 0 s)

/-- UNITC = FWR UNITS, 1. -/
def execUnitc (s : State) : Host.Outcome State Fault Refusal := .next (writeFieldOp .units 1 s)

/-- UNITF = FWR UNITS, 0. -/
def execUnitf (s : State) : Host.Outcome State Fault Refusal := .next (writeFieldOp .units 0 s)

/-- ACCEPT v = CWWR v, the decode handoff (40_command_word_ops.md R109). -/
def execAccept (v : Word64) (s : State) : Host.Outcome State Fault Refusal :=
  .next (replaceWordOp v s)

end Sys2Proof.Machine
end

