-- ==== Sys2Proof/Machine/Dispatch.lean ====
section
/-! DEFINITION. One arm per instruction, each one direct call of its meaning. -/

namespace Sys2Proof.Machine

def exec (i : Instr) (s : State) : Host.Outcome State Fault Refusal :=
  match i with
  -- command word operations and result read (40_command_word_ops.md)
  | .cwrd => Sys2Proof.Machine.execCwrd s
  | .cwwr v => Sys2Proof.Machine.execCwwr v s
  | .frd f => Sys2Proof.Machine.execFrd f s
  | .fwr f v => Sys2Proof.Machine.execFwr f v s
  | .twr tf tc => Sys2Proof.Machine.execTwr tf tc s
  -- the encoder (41_encoder.md)
  | .send r => Sys2Proof.Machine.execSend r s
  -- the decoder (42_decoder.md)
  | .decode => Sys2Proof.Machine.execDecode s
  | .rrd q => Sys2Proof.Machine.execRrd q s
  | .reservedOpc opc => Sys2Proof.Machine.execReservedOpc opc s
  -- pseudo-operations (30_encoding.md R91)
  | .pwron => Sys2Proof.Machine.execPwron s
  | .pwroff => Sys2Proof.Machine.execPwroff s
  | .unitc => Sys2Proof.Machine.execUnitc s
  | .unitf => Sys2Proof.Machine.execUnitf s
  | .accept v => Sys2Proof.Machine.execAccept v s
  -- wire symbols and the command word on the wire (30_encoding.md R70, R73)
  | .hdr => Sys2Proof.Machine.execHdr s
  | .bit0 => Sys2Proof.Machine.execBit0 s
  | .bit1 => Sys2Proof.Machine.execBit1 s
  | .trail => Sys2Proof.Machine.execTrail s
  | .cw40 w => Sys2Proof.Machine.execCw40 w s

end Sys2Proof.Machine
end

