-- ==== Sys2Proof/Machine/Port.lean ====
section
/-! DEFINITION. The operation port (60_exceptions.md R200, R201): what the codec does in one step. -/

namespace Sys2Proof.Machine

/-- An operation is accepted. At the operation level it runs whole; at the tick level SEND and DECODE
start their sequencers (00_scope.md R17; log 1). Every other operation completes in the step it is
accepted (R201). -/
def acceptOp (i : Instr) (s : State) : Host.Outcome State Fault Refusal :=
  match s.level with
  | .operation => exec i s
  | .tick =>
    match i with
    | .send r          => .next (startSend r s)
    | .decode          => .next (startDecode s)
    | .cwrd            => exec .cwrd s
    | .cwwr v          => exec (.cwwr v) s
    | .frd f           => exec (.frd f) s
    | .fwr f v         => exec (.fwr f v) s
    | .twr tf tc       => exec (.twr tf tc) s
    | .rrd q           => exec (.rrd q) s
    | .reservedOpc opc => exec (.reservedOpc opc) s
    | .pwron           => exec .pwron s
    | .pwroff          => exec .pwroff s
    | .unitc           => exec .unitc s
    | .unitf           => exec .unitf s
    | .accept v        => exec (.accept v) s
    | .hdr             => exec .hdr s
    | .bit0            => exec .bit0 s
    | .bit1            => exec .bit1 s
    | .trail           => exec .trail s
    | .cw40 w          => exec (.cw40 w) s

/-- One step of the codec: reset before everything (70_reset_and_hazards.md R220); then the operation
in progress (R200; were both flags set, which no run reaches, the encoder's, log 19); then the word
on the port, which is accepted and leaves it; otherwise nothing happens. -/
def codecStep (s : State) : Host.Outcome State Fault Refusal :=
  if s.rst then .next (resetCodec s)
  else if s.txBusy then .next (stepSend s)
  else if s.decBusy then .next (stepDecode s)
  else
    match s.host with
    | []        => .next (noResponse s)
    | w :: rest => acceptOp (decodeOp s.par.rptW w) (noResponse { s with host := rest })

/-- A step of the codec, then a move of the other agents (log 2). -/
def codecThenAgents (s : State) : Host.Outcome State Fault Refusal :=
  match codecStep s with
  | .next t    => .next (agentsMove t)
  | .fault f   => .fault f
  | .refused r => .refused r

/-- The word is put first on an idle port at the operation level (log 18). -/
def presentFirst (w : OpWord) (s : State) : State :=
  { s with
    host := w :: s.host
    rst := false
    txBusy := false
    decBusy := false
    level := .operation }

end Sys2Proof.Machine
end

