-- ==== Sys2Proof/Machine/Step.lean ====
section
/-! DEFINITION. One step of the machine, and where it takes its next instruction from. -/

namespace Sys2Proof.Machine

/-- One step (00_scope.md R5, R17). -/
def step (s : State) : Host.Outcome State Fault Refusal := codecThenAgents s

/-- The state whose very next step accepts the operation word `w` (log 18). Only a 72-bit word can be
put on the port (30_encoding.md R89). -/
def State.withFetchWord (s : State) (nbits w : Nat) : State :=
  if nbits = 72 then presentFirst (BitVec.ofNat 72 w) s else s

end Sys2Proof.Machine
end

