-- ==== Sys2Proof/Machine/Ports.lean ====
section
/-! DEFINITION. The ports of 10_state.md R29 that are computed from State. -/

namespace Sys2Proof.Machine

/-- `op_valid`: the host presents an operation word. -/
def State.opValid (s : State) : Bool := !s.host.isEmpty

/-- `op_word`: the first word the host holds; 0 while it holds none (`op_valid` = 0), where the spec is
silent: DESIGN CHOICE, log 6. -/
def State.opWord (s : State) : OpWord := s.host.headD 0

/-- `rsp_valid` (60_exceptions.md R201). -/
def State.rspValid (s : State) : Bool := s.rsp.isSome

/-- `rsp_status`; 0 without a response, DESIGN CHOICE, log 6. -/
def State.rspStatus (s : State) : BitVec 2 :=
  match s.rsp with
  | some r => statusCode r.status
  | none   => 0

/-- `op_rdata`; 0 without a response (R29, "0 otherwise"; log 6). -/
def State.opRdata (s : State) : Word64 :=
  match s.rsp with
  | some r => r.rdata
  | none   => 0

/-- `buf_addr`, LEN_W bits, the index the decoder reads in this step (42_decoder.md R176). Where no
entry is read the spec is silent and the value is the model's, DESIGN CHOICE, log 24: 0 in IDLE and
CHECK, which never read; and in the other states the index a read would take, also in a step that ends
without one: the AFTER_M step that ends in success (R162) shows OFFSET, a step stopped by the budget or
by the bound shows the index it did not read, and so does a step in which a reset is asserted. -/
def State.bufAddr (s : State) : Nat :=
  match s.dec.state with
  | .idle   => 0
  | .check  => 0
  | .hdrM   => 0
  | .hdrS   => 1
  | .bitM   => lenBits s.par s.dec.offset
  | .afterM => lenBits s.par s.dec.offset
  | .rsyM   => lenBits s.par (s.dec.offset + 1)
  | .rsyS   => lenBits s.par (s.dec.offset + 2)

/-- `buf_data`: the entry at `buf_addr`. -/
def State.bufData (s : State) : Nat := s.buf.read s.bufAddr

end Sys2Proof.Machine
end

