-- ==== Sys2Proof/Safety.lean ====
section
/-! DEFINITION. What a safe run and a sane state are, in the terms the statements use. -/

namespace Sys2Proof

open Machine

/-- A run that never stops: no number of steps ends in a fault or a refusal (60_exceptions.md R190,
"Nothing in this core is fatal"). -/
def SafeRun (s : State) : Prop := ∀ k : Nat, ∃ t, Host.Core.run core k s = .next t

/-- The same codec with other working registers (10_state.md R42, U8). -/
def withWorking (d : DecWork) (t : TxWork) (s : State) : State := { s with dec := d, tx := t }

/-- A DECODE is in progress in this state of its sequencer, and no reset, no SEND and no other agent
interferes with the next step. -/
def decoding (s : State) (st : DecState) : Prop :=
  s.rst = false ∧ s.txBusy = false ∧ s.decBusy = true ∧ s.agents = [] ∧ s.dec.state = st

/-- The next step ends the DECODE as a failure with this code: RES_OK and FAILCODE and nothing else
among the result registers, DEC_BUSY <- 0, response FAIL (60_exceptions.md R193). -/
def nextFails (s : State) (code : BitVec 4) : Prop :=
  ∃ t, step s = .next t ∧ t.res = { s.res with ok := false, failCode := code } ∧ t.cw = s.cw ∧
    t.decBusy = false ∧ t.dec.state = .idle ∧ t.rsp = some { status := .fail, rdata := 0 }

/-- The next step leaves the DECODE in progress with these working registers, and changes nothing else
but to end the pulse of an earlier response. -/
def nextGoesOn (s : State) (w : DecWork) : Prop :=
  step s = .next { s with dec := w, rsp := none }

/-- Two buffers agree below a length (20_memory.md R59, 42_decoder.md R158). -/
def agreeBelow (n : Nat) (a b : Memory) : Prop := ∀ i, i < n → a.read i = b.read i

/-- The instructions one after another, for as long as each answers a next state. -/
def runAll : List Instr → State → Host.Outcome State Fault Refusal
  | [], s => .next s
  | i :: rest, s =>
    match exec i s with
    | .next t    => runAll rest t
    | .fault f   => .fault f
    | .refused r => .refused r

/-- The rising edges of the line over these segments, from the level `b` before them
(41_encoder.md R132). -/
def risingEdges (b : Bool) : List Segment → Nat
  | [] => 0
  | g :: rest => (if !b && g.level then 1 else 0) + risingEdges g.level rest

/-- The falling edges of the line over these segments, from the level `b` before them
(41_encoder.md R132). -/
def fallingEdges (b : Bool) : List Segment → Nat
  | [] => 0
  | g :: rest => (if b && !g.level then 1 else 0) + fallingEdges g.level rest

/-- How long these segments last, in microseconds. -/
def totalDuration (segs : List Segment) : Nat := (segs.map (·.dur)).sum

/-- n1, the number of 1 bits of a payload (41_encoder.md R131). -/
def onesOf (p : Payload) : Nat := (List.range 40).countP (fun i => p.getLsbD i)

/-- T_frame(P), in microseconds (41_encoder.md R131). -/
def frameTime (p : Payload) : Nat := 75260 + 1680 * onesOf p

/-- The operation words the spec calls illegal (30_encoding.md R88), by opc = w[71:68] and
sel = w[67:64]. -/
def illegalWord (w : OpWord) : Prop :=
  8 ≤ (w.extractLsb' 68 4).toNat ∨
  ((w.extractLsb' 68 4 = 2 ∨ w.extractLsb' 68 4 = 3) ∧ 5 ≤ (w.extractLsb' 64 4).toNat) ∨
  (w.extractLsb' 68 4 = 7 ∧ 6 ≤ (w.extractLsb' 64 4).toNat)

/-- The bits of an operation word that its operation uses on a machine with this RPT_W, from the table
of 30_encoding.md R86: opc always, sel for FRD, FWR and RRD, and of data what the table lists. -/
def usedBits (rptW : Nat) (w : OpWord) : OpWord :=
  match (w.extractLsb' 68 4).toNat, (w.extractLsb' 64 4).toNat with
  | 1, _ => 0xF0FFFFFFFFFFFFFFFF#72
  | 2, _ => 0xFF0000000000000000#72
  | 3, 0 => 0xFF00000000000000FF#72
  | 3, 1 => 0xFF00000000000000FF#72
  | 3, 2 => 0xFF0000000000000001#72
  | 3, 3 => 0xFF0000000000000001#72
  | 3, 4 => 0xFF0000000000000001#72
  | 3, _ => 0xFF0000000000000000#72
  | 4, _ => 0xF0000000000000FFFF#72
  | 5, _ => 0xF00000000000000000#72 ||| BitVec.ofNat 72 (repeatBound rptW - 1)
  | 7, _ => 0xFF0000000000000000#72
  | _, _ => 0xF00000000000000000#72

/-- A well-formed frame of payload `p` with its header mark at index `b`, every duration inside the
window of its nominal; its closing space at `b + 81` is not part of this (20_memory.md R53). -/
structure FrameAt (tol : Nat) (buf : Memory) (b : Nat) (p : Payload) : Prop where
  hdrMark  : matchDur tol (buf.read b) 7000 = true
  hdrSpace : matchDur tol (buf.read (b + 1)) 4000 = true
  marks    : ∀ k, k < 40 →
    matchDur tol (buf.read (b + 2 + 2 * k)) (if p.getLsbD (39 - k) then 2400 else 720) = true
  spaces   : ∀ k, k < 39 → matchDur tol (buf.read (b + 3 + 2 * k)) 840 = true

/-- What a decode in progress keeps of its counters once the header is being read: LEN_Q has passed
the length check, MAXBITS is the budget for it, NBITS is within it, and only the bits counted are
gathered (10_state.md R30 to R33, 42_decoder.md R153 to R159). -/
structure Counting (w : DecWork) : Prop where
  long     : Config.minLen ≤ w.lenQ
  budget   : w.maxBits = bitBudget w.lenQ
  within   : w.nbits.toNat ≤ w.maxBits.toNat
  inBuffer : w.offset ≤ w.lenQ
  gathered : w.acc.toNat < 2 ^ w.nbits.toNat

/-- The decoder's working registers in each state of its sequencer (42_decoder.md R175, R176). -/
def decoderSane (w : DecWork) : Prop :=
  match w.state with
  | .idle   => True
  | .check  => True
  | .hdrM   => Counting w ∧ w.offset = 0 ∧ w.nbits = 0
  | .hdrS   => Counting w ∧ w.offset = 1 ∧ w.nbits = 0
  | .bitM   => Counting w ∧ 2 ≤ w.offset
  | .afterM => Counting w ∧ 1 ≤ w.nbits.toNat ∧ 3 ≤ w.offset
  | .rsyM   => Counting w ∧ w.nbits = 0 ∧ w.offset < w.lenQ
  | .rsyS   => Counting w ∧ w.nbits = 0 ∧ w.offset + 1 < w.lenQ

/-- The bits still to send in each state of the encoder's sequencer (10_state.md R38). -/
def bitsSane (w : TxWork) : Prop :=
  match w.state with
  | .idle  => True
  | .hdrM  => w.bits = 40
  | .hdrS  => w.bits = 40
  | .bitM  => 1 ≤ w.bits.toNat ∧ w.bits.toNat ≤ 40
  | .bitS  => w.bits.toNat ≤ 39
  | .trail => w.bits = 0

/-- The encoder's working registers: while a segment is in progress its timer runs between 1 and the
longest segment, and a frame is left to send; TX_FRAMES is at most 2^RPT_W (10_state.md R36, R38, R39). -/
structure EncoderSane (p : Params) (w : TxWork) : Prop where
  timer  : w.state ≠ .idle → 1 ≤ w.timer.toNat ∧ w.timer.toNat ≤ Config.hdrMark
  frames : w.state ≠ .idle → 1 ≤ w.frames
  width  : w.frames ≤ 2 ^ p.rptW
  bits   : bitsSane w

/-- The result registers hold what the rules say they can (10_state.md R23 to R27). -/
structure ResultsSane (r : Results) : Prop where
  /-- R24: zero in RES_VALUE[63:40]. -/
  value    : r.value.toNat < 2 ^ 40
  /-- R25: 0 until the first success and 40 after it. -/
  bits     : r.bits = 0 ∨ r.bits = 40
  /-- R26: always 0. -/
  addr     : r.addr = 0
  cmd      : r.cmd = 0
  /-- 60_exceptions.md R191: 11 to 15 are never written. -/
  failCode : r.failCode.toNat ≤ 10
  /-- 42_decoder.md R163. -/
  success  : r.ok = true → r.bits = 40 ∧ r.failCode = 0

/-- The invariant of the machine. -/
structure Inv (s : State) : Prop where
  /-- 00_scope.md R9 and log 11. -/
  params    : s.par.ok = true
  buffer    : s.buf.wf s.par = true
  /-- 20_memory.md R51: `buf_len` has LEN_W bits. -/
  bufLen    : s.bufLen < 2 ^ s.par.lenW
  results   : ResultsSane s.res
  /-- 10_state.md R28: at most one of the two is 1. -/
  exclusive : ¬(s.txBusy = true ∧ s.decBusy = true)
  txBusy    : s.txBusy = true ↔ s.tx.state ≠ .idle
  decBusy   : s.decBusy = true ↔ s.dec.state ≠ .idle
  /-- 41_encoder.md R135: 1 exactly in HDR_M and BIT_M. -/
  line      : s.irOut = markState s.tx.state
  encoder   : EncoderSane s.par s.tx
  decoder   : decoderSane s.dec
  /-- 10_state.md R34: LEN_Q has LEN_W bits. -/
  lenQ      : s.dec.lenQ < 2 ^ s.par.lenW
  /-- 10_state.md R30: OFFSET has LEN_W + 1 bits. -/
  offset    : s.dec.offset < 2 ^ (s.par.lenW + 1)

end Sys2Proof
end

