-- ==== Sys2Proof/Certificates/Slice0/Obligations.lean ====
section
/-! DEFINITION. The statements about the model. OBLIGATIONS.json gives each its number, its tier and
the rules of spec/ it rests on. -/

open Sys2Proof Sys2Proof.Machine

/-! ## Reset (10_state.md R43, 70_reset_and_hazards.md R220 to R222) -/

/-- R43: the codec right after reset, and its default word by field. -/
def Obligations.ResetStateHoldsTheSpecifiedValues : Prop :=
  State.reset.cw = 0x0000000F3C186929#64 ∧
  State.reset.res = { ok := false, value := 0, bits := 0, addr := 0, cmd := 0, failCode := 0 } ∧
  State.reset.txBusy = false ∧ State.reset.decBusy = false ∧
  State.reset.tx = { state := .idle, timer := 0, sr := 0, bits := 0, frames := 0 } ∧
  State.reset.dec =
    { state := .idle, offset := 0, acc := 0, nbits := 0, maxBits := 0, lenQ := 0, ovfQ := false } ∧
  State.reset.irOut = false ∧ State.reset.busy = false ∧ State.reset.opReady = true ∧
  (readField .tc State.reset.cw).toNat = 41 ∧ (readField .tf State.reset.cw).toNat = 105 ∧
  (readField .pwr State.reset.cw).toNat = 1 ∧ (readField .units State.reset.cw).toNat = 1 ∧
  (readField .flow State.reset.cw).toNat = 0 ∧
  State.reset.cw.extractLsb' 16 3 = 0 ∧ State.reset.cw.extractLsb' 22 18 = 0x03CF0#18 ∧
  State.reset.cw.extractLsb' 40 24 = 0

/-- R223, and R222 (an inference the spec derives from R43): the first operation after reset may be
any operation word; it is accepted in the first step and answered in it at the operation level. -/
def Obligations.FirstOperationAfterResetMayBeAnyWord : Prop :=
  ∀ w : OpWord, ∃ t r, step { State.reset with host := [w] } = .next t ∧ t.host = [] ∧ t.rsp = some r ∧
    exec (decodeOp State.reset.par.rptW w) State.reset = .next t

/-- R220, R221: in any step in which `rst` = 1 every register takes its reset value, whatever is in
progress; no response is given and no operation is accepted. The line clause is the model's choice
(log 5, DESIGN CHOICE): the history survives reset, and a tick in this very step is not counted in the
segment cut short, where R221 says only "up to that instant". -/
def Obligations.ResetTakesEveryRegisterToItsResetValue : Prop :=
  ∀ s : State, s.rst = true → ∃ t : State, step s = .next t ∧
    t.cw = 0x0000000F3C186929#64 ∧
    t.res = { ok := false, value := 0, bits := 0, addr := 0, cmd := 0, failCode := 0 } ∧
    t.txBusy = false ∧ t.decBusy = false ∧
    t.tx = { state := .idle, timer := 0, sr := 0, bits := 0, frames := 0 } ∧
    t.dec = { state := .idle, offset := 0, acc := 0, nbits := 0, maxBits := 0, lenQ := 0, ovfQ := false } ∧
    t.irOut = false ∧ t.rsp = none ∧ t.line = s.line ∧ (s.agents = [] → t.host = s.host)

/-! ## Command word operations (40_command_word_ops.md) -/

/-- R101: a word with opc = 0 is CWRD, which answers CW and changes nothing but the response. -/
def Obligations.CwrdAnswersTheWholeCommandWord : Prop :=
  (∀ (n : Nat) (w : OpWord), w.extractLsb' 68 4 = 0 → decodeOp n w = .cwrd) ∧
  (∀ s : State, exec .cwrd s = .next { s with rsp := some { status := .ok, rdata := s.cw } }) ∧
  exec .cwrd State.reset =
    .next { State.reset with rsp := some { status := .ok, rdata := 0x0000000F3C186929#64 } }

/-- R102: a word with opc = 1 is CWWR of its data, which replaces all of CW, and a CWRD after it
answers the value. -/
def Obligations.CwwrReplacesTheWholeCommandWord : Prop :=
  (∀ (n : Nat) (w : OpWord), w.extractLsb' 68 4 = 1 → decodeOp n w = .cwwr (w.extractLsb' 0 64)) ∧
  (∀ (v : Word64) (s : State), exec (.cwwr v) s =
    .next { s with cw := v, rsp := some { status := .ok, rdata := 0 } }) ∧
  (∀ (v : Word64) (s : State), ∃ t, exec (.cwwr v) s = .next t ∧
    exec .cwrd t = .next { t with rsp := some { status := .ok, rdata := v } })

/-- R103: a word with opc = 2 is FRD of its selector; it answers the field zero-extended, or refuses a
selector 5 to 15 with 2, and changes nothing but the response. -/
def Obligations.FrdAnswersTheFieldZeroExtended : Prop :=
  (∀ w : OpWord, w.extractLsb' 68 4 = 2 → ∀ s : State,
    exec (decodeOp s.par.rptW w) s =
      .next { s with rsp := some (match (w.extractLsb' 64 4).toNat with
        | 0 => { status := .ok, rdata := (s.cw.extractLsb' 0 8).setWidth 64 }
        | 1 => { status := .ok, rdata := (s.cw.extractLsb' 8 8).setWidth 64 }
        | 2 => { status := .ok, rdata := (s.cw.extractLsb' 19 1).setWidth 64 }
        | 3 => { status := .ok, rdata := (s.cw.extractLsb' 20 1).setWidth 64 }
        | 4 => { status := .ok, rdata := (s.cw.extractLsb' 21 1).setWidth 64 }
        | _ => { status := .refused, rdata := 2 }) }) ∧
  (∀ (f : FieldName) (s : State), exec (.frd (.named f)) s =
    .next { s with rsp := some { status := .ok, rdata := fieldRead s.cw (fieldShift f) (fieldWidth f) } }) ∧
  (∀ (k : BitVec 4) (s : State), exec (.frd (.reserved k)) s =
    .next { s with rsp := some { status := .refused, rdata := 2 } })

/-- R104: a word with opc = 3 and selector 0 to 4 changes exactly the bits of its field, to the low
bits of its data; with selector 5 to 15 it is refused with 2 and CW is unchanged. Nothing else
changes but the response. -/
def Obligations.FwrWritesExactlyTheBitsOfItsField : Prop :=
  (∀ w : OpWord, w.extractLsb' 68 4 = 3 → ∀ f : FieldName, w.extractLsb' 64 4 = fieldCode f →
    ∀ s : State, ∃ c : Word64,
      exec (decodeOp s.par.rptW w) s = .next { s with cw := c, rsp := some { status := .ok, rdata := 0 } } ∧
      ∀ i, i < 64 → c.getLsbD i =
        (if fieldShift f ≤ i ∧ i < fieldShift f + fieldWidth f then w.getLsbD (i - fieldShift f)
         else s.cw.getLsbD i)) ∧
  (∀ w : OpWord, w.extractLsb' 68 4 = 3 → 5 ≤ (w.extractLsb' 64 4).toNat → ∀ s : State,
    exec (decodeOp s.par.rptW w) s = .next { s with rsp := some { status := .refused, rdata := 2 } }) ∧
  (∀ (f : FieldName) (v : BitVec 8) (s : State), exec (.fwr (.named f) v) s =
    .next { s with
      cw := (s.cw &&& ~~~(BitVec.ofNat 64 (2 ^ fieldWidth f - 1) <<< fieldShift f)) |||
        ((v.setWidth 64 &&& BitVec.ofNat 64 (2 ^ fieldWidth f - 1)) <<< fieldShift f)
      rsp := some { status := .ok, rdata := 0 } }) ∧
  (∀ (k : BitVec 4) (v : BitVec 8) (s : State), exec (.fwr (.reserved k) v) s =
    .next { s with rsp := some { status := .refused, rdata := 2 } })

/-- R105 (which the spec derives from R104): the five laws of field writes, over the command word. -/
def Obligations.FieldWritesObeyTheirLaws : Prop :=
  (∀ (f : FieldName) (a cw : Word64),
    readField f (writeField f a cw) = a &&& BitVec.ofNat 64 (2 ^ fieldWidth f - 1)) ∧
  (∀ (f g : FieldName) (a cw : Word64), f ≠ g → readField g (writeField f a cw) = readField g cw) ∧
  (∀ (f : FieldName) (a cw : Word64),
    (writeField f a cw).extractLsb' 16 3 = cw.extractLsb' 16 3 ∧
    (writeField f a cw).extractLsb' 22 42 = cw.extractLsb' 22 42) ∧
  (∀ (f : FieldName) (a b cw : Word64), writeField f b (writeField f a cw) = writeField f b cw) ∧
  (∀ (f g : FieldName) (a b cw : Word64), f ≠ g →
    writeField g b (writeField f a cw) = writeField f a (writeField g b cw)) ∧
  (∀ cw : Word64, writeField .pwr 0 (writeField .pwr 1 cw) = cw &&& ~~~(1#64 <<< 19)) ∧
  (∀ cw : Word64, writeField .units 0 (writeField .units 1 cw) = cw &&& ~~~(1#64 <<< 20))

/-- R106: a word with opc = 4 is TWR of data[15:8] and data[7:0]; it writes CW[15:0] and leaves
CW[63:16]; it is FWR TF and FWR TC in either order; TWR 105, 41 on any CW gives CW[15:0] = 0x6929. -/
def Obligations.TwrWritesBothTemperaturesInOneStep : Prop :=
  (∀ (n : Nat) (w : OpWord), w.extractLsb' 68 4 = 4 →
    decodeOp n w = .twr (w.extractLsb' 8 8) (w.extractLsb' 0 8)) ∧
  (∀ (tf tc : BitVec 8) (s : State), exec (.twr tf tc) s =
    .next { s with
      cw := s.cw.extractLsb' 16 48 ++ tf ++ tc, rsp := some { status := .ok, rdata := 0 } }) ∧
  (∀ (tf tc : BitVec 8) (s : State), ∃ t u, exec (.twr tf tc) s = .next t ∧
    exec (.fwr (.named .tf) tf) s = .next u ∧ exec (.fwr (.named .tc) tc) u = .next t) ∧
  (∀ (tf tc : BitVec 8) (s : State), ∃ t u, exec (.twr tf tc) s = .next t ∧
    exec (.fwr (.named .tc) tc) s = .next u ∧ exec (.fwr (.named .tf) tf) u = .next t) ∧
  (∀ s : State, ∃ t, exec (.twr 105 41) s = .next t ∧ t.cw.extractLsb' 0 16 = 0x6929#16)

/-- R107: a word with opc = 7 is RRD of its selector; it answers the result register zero-extended, or
refuses a selector 6 to 15 with 2, and changes nothing but the response. In a sane state ADDR and CMD
answer 0 and BITS answers 0 or 40. -/
def Obligations.RrdAnswersTheResultRegister : Prop :=
  (∀ w : OpWord, w.extractLsb' 68 4 = 7 → ∀ s : State,
    exec (decodeOp s.par.rptW w) s =
      .next { s with rsp := some (match (w.extractLsb' 64 4).toNat with
        | 0 => { status := .ok, rdata := s.res.value }
        | 1 => { status := .ok, rdata := s.res.bits.setWidth 64 }
        | 2 => { status := .ok, rdata := BitVec.ofNat 64 (s.res.addr % 2 ^ s.par.addrW) }
        | 3 => { status := .ok, rdata := BitVec.ofNat 64 (s.res.cmd % 2 ^ s.par.cmdW) }
        | 4 => { status := .ok, rdata := (BitVec.ofBool s.res.ok).setWidth 64 }
        | 5 => { status := .ok, rdata := s.res.failCode.setWidth 64 }
        | _ => { status := .refused, rdata := 2 }) }) ∧
  (∀ (q : ResultName) (s : State), ∃ v, exec (.rrd (.named q)) s =
    .next { s with rsp := some { status := .ok, rdata := v } }) ∧
  (∀ (k : BitVec 4) (s : State), exec (.rrd (.reserved k)) s =
    .next { s with rsp := some { status := .refused, rdata := 2 } }) ∧
  (∀ q : ResultName, exec (.rrd (.named q)) State.reset =
    .next { State.reset with rsp := some { status := .ok, rdata := 0 } }) ∧
  (∀ s : State, Inv s →
    exec (.rrd (.named .addr)) s = .next { s with rsp := some { status := .ok, rdata := 0 } } ∧
    exec (.rrd (.named .cmd)) s = .next { s with rsp := some { status := .ok, rdata := 0 } } ∧
    (exec (.rrd (.named .bits)) s = .next { s with rsp := some { status := .ok, rdata := 0 } } ∨
     exec (.rrd (.named .bits)) s = .next { s with rsp := some { status := .ok, rdata := 40 } }))

/-! ## Refusals and encodings (30_encoding.md R85 to R91, 60_exceptions.md R194) -/

/-- R88, R194: a word is refused exactly when it is illegal; then nothing changes but the response,
which is REFUSED with 1 for a reserved operation code, examined first, and with 2 for a reserved
selector; and two words that differ only in ignored bits are the same operation. -/
def Obligations.ExactlyTheIllegalWordsAreRefused : Prop :=
  (∀ (w : OpWord) (s : State), illegalWord w →
    exec (decodeOp s.par.rptW w) s = .next { s with
      rsp := some { status := .refused,
                    rdata := if 8 ≤ (w.extractLsb' 68 4).toNat then 1 else 2 } }) ∧
  (∀ (w : OpWord) (s : State), ¬ illegalWord w →
    ∃ t r, exec (decodeOp s.par.rptW w) s = .next t ∧ t.rsp = some r ∧ r.status ≠ .refused) ∧
  (∀ (n : Nat) (w w' : OpWord), w &&& usedBits n w = w' &&& usedBits n w' → decodeOp n w = decodeOp n w') ∧
  (∀ (k : BitVec 4) (s : State), exec (.reservedOpc k) s =
    .next { s with rsp := some { status := .refused, rdata := 1 } })

/-- R86: two words are the same operation exactly when they agree on the bits their operation uses,
for every RPT_W (`n`). -/
def Obligations.WordsAreTheSameOperationWhenTheirUsedBitsAgree : Prop :=
  ∀ (n : Nat) (w w' : OpWord),
    decodeOp n w = decodeOp n w' ↔ w &&& usedBits n w = w' &&& usedBits n w'

/-- R83 to R91, R70, R73: for every RPT_W (`n`), decoding the encoding of a well-formed instruction
gives it back; a pseudo-operation comes back as the operation it expands to (log 8). -/
def Obligations.DecodingAnEncodingGivesTheInstructionBack : Prop :=
  ∀ (n : Nat) (i : Instr), i.wf n = true → decodeEncoding n (encode i) = .ok (canonical i)

/-- R86, R90: encoding what a word decodes to gives the word with its ignored bits 0, and what a word
decodes to is well formed. -/
def Obligations.EncodingADecodedWordClearsItsIgnoredBits : Prop :=
  ∀ (n : Nat) (w : OpWord),
    encode (decodeOp n w) = .op (w &&& usedBits n w) ∧ (decodeOp n w).wf n = true

/-- R70: packing the fields of a command word and taking them apart are inverse, and each named field
lies where the field table puts it. -/
def Obligations.CommandWordFieldsLieWhereTheTablePutsThem : Prop :=
  (∀ p : Payload, packCommand (unpackCommand p) = p) ∧
  (∀ c : CommandWord, unpackCommand (packCommand c) = c) ∧
  (∀ c : CommandWord,
    readField .tc ((packCommand c).setWidth 64) = c.tc.setWidth 64 ∧
    readField .tf ((packCommand c).setWidth 64) = c.tf.setWidth 64 ∧
    readField .pwr ((packCommand c).setWidth 64) = c.pwr.setWidth 64 ∧
    readField .units ((packCommand c).setWidth 64) = c.units.setWidth 64 ∧
    readField .flow ((packCommand c).setWidth 64) = c.flow.setWidth 64)

/-- R90 and the words of 95_test_vectors.md: operation words written out digit by digit, one or more
for each family, decode to the instruction they stand for. -/
def Obligations.WrittenOutWordsDecodeAsListed : Prop :=
  decodeTableWord 72 0x000000000000000000 = some .cwrd ∧
  decodeTableWord 72 0x1AB00000F3C106929 = some .cwrd ∧
  decodeTableWord 72 0x10AB00000F3C106929 = some (.cwwr 0xAB00000F3C106929#64) ∧
  decodeTableWord 72 0x210000000000000000 = some (.frd (.named .tf)) ∧
  decodeTableWord 72 0x3000000000000001FF = some (.fwr (.named .tc) 0xFF) ∧
  decodeTableWord 72 0x320000000000000002 = some (.fwr (.named .pwr) 0) ∧
  decodeTableWord 72 0x400000000000007831 = some (.twr 120 49) ∧
  decodeTableWord 72 0x500000000000000001 = some (.send 1) ∧
  decodeTableWord 72 0x600000000000000000 = some .decode ∧
  decodeTableWord 72 0x740000000000000000 = some (.rrd (.named .ok)) ∧
  decodeTableWord 72 0x900000000000000000 = some (.reservedOpc 9) ∧
  decodeTableWord 71 0 = none

/-- R91: each pseudo-operation is one FWR or CWWR word, and does to the machine what that does. -/
def Obligations.PseudoOperationsDoWhatTheyExpandTo : Prop :=
  (encode .pwron = encode (.fwr (.named .pwr) 1) ∧ encode .pwroff = encode (.fwr (.named .pwr) 0) ∧
    encode .unitc = encode (.fwr (.named .units) 1) ∧ encode .unitf = encode (.fwr (.named .units) 0) ∧
    ∀ v, encode (.accept v) = encode (.cwwr v)) ∧
  (∀ s, exec .pwron s = exec (.fwr (.named .pwr) 1) s ∧ exec .pwroff s = exec (.fwr (.named .pwr) 0) s ∧
    exec .unitc s = exec (.fwr (.named .units) 1) s ∧ exec .unitf s = exec (.fwr (.named .units) 0) s ∧
    ∀ v, exec (.accept v) s = exec (.cwwr v) s) ∧
  (∀ s : State,
    exec .pwron s =
      .next { s with cw := s.cw ||| (1#64 <<< 19), rsp := some { status := .ok, rdata := 0 } } ∧
    exec .pwroff s =
      .next { s with cw := s.cw &&& ~~~(1#64 <<< 19), rsp := some { status := .ok, rdata := 0 } } ∧
    exec .unitc s =
      .next { s with cw := s.cw ||| (1#64 <<< 20), rsp := some { status := .ok, rdata := 0 } } ∧
    exec .unitf s =
      .next { s with cw := s.cw &&& ~~~(1#64 <<< 20), rsp := some { status := .ok, rdata := 0 } } ∧
    ∀ v, exec (.accept v) s =
      .next { s with cw := v, rsp := some { status := .ok, rdata := 0 } })

/-- R90: what the assembler makes of each line, and that it refuses a value that does not fit; the
repeat count has RPT_W (`n`) bits, 0..255 at the spec's 8. -/
def Obligations.AssemblerEncodesEachLineAndRefusesOversizedValues : Prop :=
  ∀ n : Nat,
  (∀ (l : AsmLine) (i : Instr), assemble n l = some i → i.wf n = true ∧ ∃ w, encode i = .op w) ∧
  (assemble n .cwrd).map encode = some (.op (opWord 0 0 0)) ∧
  (∀ v, v < 2 ^ 64 → (assemble n (.cwwr v)).map encode = some (.op (opWord 1 0 (BitVec.ofNat 64 v)))) ∧
  (∀ f, (assemble n (.frd f)).map encode = some (.op (opWord 2 (fieldCode f) 0))) ∧
  (∀ f v, v < f.operandBound →
    (assemble n (.fwr f v)).map encode = some (.op (opWord 3 (fieldCode f) (BitVec.ofNat 64 v)))) ∧
  (∀ tf tc, tf < 256 → tc < 256 →
    (assemble n (.twr tf tc)).map encode = some (.op (opWord 4 0 (BitVec.ofNat 64 (tf * 256 + tc))))) ∧
  (∀ r, r < repeatBound n → (assemble n (.send r)).map encode = some (.op (opWord 5 0 (BitVec.ofNat 64 r)))) ∧
  (assemble n .decode).map encode = some (.op (opWord 6 0 0)) ∧
  (∀ q, (assemble n (.rrd q)).map encode = some (.op (opWord 7 (resultCode q) 0))) ∧
  (∀ v, 2 ^ 64 ≤ v → assemble n (.cwwr v) = none ∧ assemble n (.accept v) = none) ∧
  (∀ f v, f.operandBound ≤ v → assemble n (.fwr f v) = none) ∧
  (∀ tf tc, 256 ≤ tf ∨ 256 ≤ tc → assemble n (.twr tf tc) = none) ∧
  (∀ r, repeatBound n ≤ r → assemble n (.send r) = none) ∧
  repeatBound 8 = 256

/-! ## The wire code and the encoder (30_encoding.md R73 to R75, 41_encoder.md) -/

/-- R73, read as the emission of each symbol by the encoder (the model's choice, log 9). -/
def Obligations.WireSymbolsPutTheirSegmentsOnTheLine : Prop :=
  ∀ s : State,
    exec .hdr s =
      .next { s with line := ⟨false, 4000⟩ :: ⟨true, 7000⟩ :: s.line, irOut := false } ∧
    exec .bit0 s =
      .next { s with line := ⟨false, 840⟩ :: ⟨true, 720⟩ :: s.line, irOut := false } ∧
    exec .bit1 s =
      .next { s with line := ⟨false, 840⟩ :: ⟨true, 2400⟩ :: s.line, irOut := false } ∧
    exec .trail s = .next { s with line := ⟨false, 1860⟩ :: s.line, irOut := false }

/-- R126 and R70, read as the emission of the forty data symbols of a command word, most significant
bit first (the model's choice, log 9). -/
def Obligations.CommandWordGoesOutMostSignificantBitFirst : Prop :=
  ∀ (c : CommandWord) (s : State),
    exec (.cw40 c) s =
      .next { s with
        line := ((List.range 40).flatMap (fun k =>
          [⟨true, if (packCommand c).getLsbD (39 - k) then 2400 else 720⟩, ⟨false, 840⟩])).reverse ++ s.line
        irOut := false }

/-- R130, and R134, which the spec derives from R130 and R40: a word with opc = 5 is SEND of the low
RPT_W bits of data, data[7:0] at the spec's RPT_W = 8; the line gets Trace(CW[39:0], R), the
response is OK, the encoder is idle and the line low after it, and nothing else changes but the
encoder's working registers, which are left open. -/
def Obligations.SendPutsTheTraceOnTheLine : Prop :=
  (∀ w : OpWord, w.extractLsb' 68 4 = 5 → decodeOp 8 w = .send (w.extractLsb' 0 8).toNat) ∧
  (∀ (n : Nat) (w : OpWord), w.extractLsb' 68 4 = 5 →
    decodeOp n w = .send ((w.extractLsb' 0 64).toNat % 2 ^ min n 64)) ∧
  ∀ (r : Nat) (s : State), ∃ tx' : TxWork, tx'.state = .idle ∧
    exec (.send r) s =
      .next { s with
        line := ((List.replicate (r + 1)
          ([⟨true, 7000⟩, ⟨false, 4000⟩] ++
           (List.range 40).flatMap (fun k =>
             [⟨true, if s.cw.getLsbD (39 - k) then 2400 else 720⟩, ⟨false, 840⟩]) ++
           [⟨false, 1860⟩])).flatten).reverse ++ s.line
        irOut := false
        txBusy := false
        tx := tx'
        rsp := some { status := .ok, rdata := 0 } }

/-- R131, R132 (which the spec derives from R130): what a SEND puts on the line lasts (R + 1) times 75260 + 1680 n1 microseconds, in 83
segments a frame, of which 41 are marks; the line rises and falls 41 times a frame; and its capture
has 82 entries a frame, the last of them 2700 (for every DUR_W that can hold 7000). -/
def Obligations.SendLastsAsLongAsItsFrames : Prop :=
  ∀ (r : Nat) (s : State), ∃ (t : State) (segs : List Segment),
    exec (.send r) s = .next t ∧ t.trace = s.trace ++ segs ∧
    totalDuration segs = (r + 1) * (75260 + 1680 * onesOf (s.cw.setWidth 40)) ∧
    segs.length = 83 * (r + 1) ∧
    segs.countP (·.level) = 41 * (r + 1) ∧
    risingEdges false segs = 41 * (r + 1) ∧
    fallingEdges false segs = 41 * (r + 1) ∧
    (captureOf s.par.durW segs).length = 82 * (r + 1) ∧
    (13 ≤ s.par.durW → (captureOf s.par.durW segs).getLast? = some 2700)

/-- R74, R75: the line after a SEND is the line after the encoder has emitted, R + 1 times, HDR, then
BIT1 or BIT0 for each bit of CW[39:0] from bit 39 down, then TRAIL (symbols as instructions are the
model's choice, log 9). -/
def Obligations.SendIsItsSymbolsInOrder : Prop :=
  ∀ (r : Nat) (s : State), ∃ t u : State,
    exec (.send r) s = .next t ∧
    runAll ((List.replicate (r + 1)
      ([Instr.hdr] ++
       (List.range 40).map (fun k => if s.cw.getLsbD (39 - k) then Instr.bit1 else Instr.bit0) ++
       [Instr.trail])).flatten) s = .next u ∧
    t.line = u.line

/-- R53, R54: the capture of a SEND, entry by entry, for every DUR_W that can hold 7000. -/
def Obligations.CaptureOfASendHasTheFrameLayout : Prop :=
  ∀ (durW : Nat) (p : Payload) (r : Nat), 13 ≤ durW →
    captureOf durW (sendTrace p r) =
      (List.replicate (r + 1)
        ([7000, 4000] ++
         (List.range 39).flatMap (fun k => [if p.getLsbD (39 - k) then 2400 else 720, 840]) ++
         [if p.getLsbD 0 then 2400 else 720, 2700])).flatten

/-! ## MATCH (00_scope.md R9, R12) -/

/-- R12: MATCH by its two inequalities, and its windows at TOL_PCT = 25. -/
def Obligations.MatchHasTheListedWindows : Prop :=
  (∀ (tol : Nat) (m : Nat) (n : Nat), matchDur tol m n = true ↔
    n * (100 - tol) ≤ m * 100 ∧ m * 100 ≤ n * (100 + tol)) ∧
  (∀ m : Nat,
    (matchDur 25 m 7000 = true ↔ 5250 ≤ m ∧ m ≤ 8750) ∧
    (matchDur 25 m 4000 = true ↔ 3000 ≤ m ∧ m ≤ 5000) ∧
    (matchDur 25 m 720 = true ↔ 540 ≤ m ∧ m ≤ 900) ∧
    (matchDur 25 m 2400 = true ↔ 1800 ≤ m ∧ m ≤ 3000) ∧
    (matchDur 25 m 840 = true ↔ 630 ≤ m ∧ m ≤ 1050) ∧
    (matchDur 25 m 2700 = true ↔ 2025 ≤ m ∧ m ≤ 3375))

/-- R9 (which the spec derives from R6 and R12): for every TOL_PCT the spec admits no duration is both a 0 and a 1, and none is both an
inter-bit space and a repeat boundary; every nominal matches itself. -/
def Obligations.WindowsAreDisjointUpToFiftyPercent : Prop :=
  ∀ (tol : Nat) (m : Nat), tol ≤ 50 →
    ¬(matchDur tol m 720 = true ∧ matchDur tol m 2400 = true) ∧
    ¬(matchDur tol m 840 = true ∧ matchDur tol m 2700 = true) ∧
    (∀ n ∈ [7000, 4000, 720, 2400, 840, 2700], matchDur tol n n = true)

/-! ## The decoder (42_decoder.md) -/

/-- R163, R168, R172, R193: a word with opc = 6 is DECODE. DECODE always answers; on success the
result registers hold a value of forty bits and RES_BITS = 40, on failure only RES_OK and FAILCODE
change; in both cases nothing else changes but DEC_BUSY, the working registers and the response. -/
def Obligations.DecodeAnswersOkOrFailAndWritesOnlyItsResult : Prop :=
  (∀ (n : Nat) (w : OpWord), w.extractLsb' 68 4 = 6 → decodeOp n w = .decode) ∧
  ∀ s : State, ∃ (res' : Results) (dec' : DecWork) (st : Status),
    exec .decode s =
      .next { s with res := res', decBusy := false, dec := dec', rsp := some { status := st, rdata := 0 } } ∧
    dec'.state = .idle ∧
    ((st = .ok ∧ res'.ok = true ∧ res'.value = dec'.acc ∧ res'.value.toNat < 2 ^ 40 ∧ res'.bits = 40 ∧
        res'.addr = 0 ∧ res'.cmd = 0 ∧ res'.failCode = 0) ∨
     (st = .fail ∧ ∃ c : BitVec 4, 1 ≤ c.toNat ∧ c.toNat ≤ 10 ∧
        res' = { s.res with ok := false, failCode := c }))

/-- R152, R153: the overflow signal fails a DECODE with OVERFLOW (10) before the length is looked at,
and a length below 82 fails it with SHORT (1), whatever the buffer holds; a length of 82 or more
passes both. -/
def Obligations.DecodeTestsOverflowThenLength : Prop :=
  (∀ s : State, s.bufOvf = true → ∃ t, exec .decode s = .next t ∧
    t.res = { s.res with ok := false, failCode := 10 } ∧
    t.rsp = some { status := .fail, rdata := 0 }) ∧
  (∀ s : State, s.bufOvf = false → s.bufLen < 82 → ∃ t, exec .decode s = .next t ∧
    t.res = { s.res with ok := false, failCode := 1 } ∧
    t.rsp = some { status := .fail, rdata := 0 }) ∧
  (∀ s : State, s.bufOvf = false → 82 ≤ s.bufLen → ∃ t, exec .decode s = .next t ∧
    t.res.failCode ≠ 1 ∧ t.res.failCode ≠ 10)

/-- R156, R157: a first entry that does not match 7000 fails the decode with HDR_MARK (2), and a
second entry that does not match 4000 with HDR_SPACE (3). -/
def Obligations.DecodeTestsTheHeader : Prop :=
  (∀ s : State, s.bufOvf = false → 82 ≤ s.bufLen →
    matchDur s.par.tolPct (s.buf.read 0) 7000 = false →
    ∃ t, exec .decode s = .next t ∧ t.res = { s.res with ok := false, failCode := 2 } ∧
      t.rsp = some { status := .fail, rdata := 0 }) ∧
  (∀ s : State, s.bufOvf = false → 82 ≤ s.bufLen →
    matchDur s.par.tolPct (s.buf.read 0) 7000 = true →
    matchDur s.par.tolPct (s.buf.read 1) 4000 = false →
    ∃ t, exec .decode s = .next t ∧ t.res = { s.res with ok := false, failCode := 3 } ∧
      t.rsp = some { status := .fail, rdata := 0 })

/-- R168 (which the spec derives from R167): the bound on the passes of the bit loop is never what ends it: more passes change nothing,
whatever the working registers and the buffer. -/
def Obligations.DecodeLoopEndsWithinItsBound : Prop :=
  ∀ (tol : Nat) (buf : Memory) (w : DecWork) (n : Nat),
    decodeLoop tol buf (w.lenQ / 2 + 1 + n) w = decodeLoop tol buf (w.lenQ / 2 + 1) w

/-- R158, R59: what a DECODE does depends on no entry at or past LEN. -/
def Obligations.DecodeReadsNothingPastTheDeclaredLength : Prop :=
  ∀ (s : State) (m : Memory), agreeBelow s.bufLen s.buf m →
    ∃ t, exec .decode s = .next t ∧ exec .decode { s with buf := m } = .next { t with buf := m }

/-- R169 (which the spec derives from R167): given F well-formed frames back to back, every closing space but the last matching 2700 and
the last present or not, the decode succeeds with the payload of the last frame, for every TOL_PCT
the spec admits. -/
def Obligations.LastFrameWins : Prop :=
  ∀ (s : State) (n : Nat) (p : Nat → Payload),
    s.par.tolPct ≤ 50 → s.bufOvf = false → 82 ≤ s.bufLen →
    (s.bufLen = 82 * (n + 1) ∨ s.bufLen = 82 * (n + 1) - 1) →
    (∀ f, f ≤ n → FrameAt s.par.tolPct s.buf (82 * f) (p f)) →
    (∀ f, f < n → matchDur s.par.tolPct (s.buf.read (82 * f + 81)) 2700 = true) →
    ∃ t, exec .decode s = .next t ∧ t.rsp = some { status := .ok, rdata := 0 } ∧
      t.res = { ok := true, value := (p n).setWidth 64, bits := 40, addr := 0, cmd := 0, failCode := 0 }

/-- R171 (which the spec derives from R167 and R169): what a SEND puts on the line, captured and
decoded, gives back the forty bits sent, for every command word, every TOL_PCT the spec admits, every
DUR_W that can hold 7000 and every repeat count whose capture LEN_W can declare (at the spec's widths
all of 0..255); and so does that capture without its last entry, if there was a repeat. -/
def Obligations.DecodingTheCaptureOfASendGivesThePayloadBack : Prop :=
  ∀ (s : State) (r : Nat), s.par.tolPct ≤ 50 → 13 ≤ s.par.durW → 82 * (r + 1) < 2 ^ s.par.lenW →
    ∃ (t : State) (segs : List Segment),
    exec (.send r) s = .next t ∧ t.trace = s.trace ++ segs ∧
    (∃ u, exec .decode (applyMove (.capture (captureOf s.par.durW segs) false) t) = .next u ∧
      u.rsp = some { status := .ok, rdata := 0 } ∧
      u.res = { ok := true, value := (s.cw.setWidth 40).setWidth 64, bits := 40, addr := 0, cmd := 0,
                failCode := 0 }) ∧
    (1 ≤ r → ∃ u,
      exec .decode (applyMove (.capture (captureOf s.par.durW segs).dropLast false) t) = .next u ∧
      u.rsp = some { status := .ok, rdata := 0 } ∧
      u.res = { ok := true, value := (s.cw.setWidth 40).setWidth 64, bits := 40, addr := 0, cmd := 0,
                failCode := 0 })

/-- R170: entries after the closing space of a complete frame fail the decode unless they open
another frame: a boundary with no header mark after it fails with RESYNC_MARK (6), a closing space
that matches neither 2700 nor 840 with SPACE (5), and one that matches 840 with one entry left over
with BUDGET (9). -/
def Obligations.TrailingEntriesFailTheDecode : Prop :=
  ∀ (s : State) (p : Payload),
    s.par.tolPct ≤ 50 → s.bufOvf = false → 83 ≤ s.bufLen → FrameAt s.par.tolPct s.buf 0 p →
    (matchDur s.par.tolPct (s.buf.read 81) 2700 = true →
      matchDur s.par.tolPct (s.buf.read 82) 7000 = false →
      ∃ t, exec .decode s = .next t ∧ t.res = { s.res with ok := false, failCode := 6 }) ∧
    (matchDur s.par.tolPct (s.buf.read 81) 2700 = false →
      matchDur s.par.tolPct (s.buf.read 81) 840 = false →
      ∃ t, exec .decode s = .next t ∧ t.res = { s.res with ok := false, failCode := 5 }) ∧
    (matchDur s.par.tolPct (s.buf.read 81) 840 = true → s.bufLen = 83 →
      ∃ t, exec .decode s = .next t ∧ t.res = { s.res with ok := false, failCode := 9 })

/-- R109: after a DECODE that answered OK, RRD VALUE answers the value, and CWWR of it leaves CW equal
to it with CW[63:40] = 0 and every field read from it; after one that answered FAIL, CW is as
before. -/
def Obligations.DecodeHandoffClearsTheUntransmittedBits : Prop :=
  ∀ s : State, ∃ t, exec .decode s = .next t ∧ t.cw = s.cw ∧
    (t.rsp = some { status := .ok, rdata := 0 } →
      exec (.rrd (.named .ok)) t = .next { t with rsp := some { status := .ok, rdata := 1 } } ∧
      exec (.rrd (.named .value)) t =
        .next { t with rsp := some { status := .ok, rdata := t.res.value } } ∧
      ∃ u, exec (.cwwr t.res.value) t = .next u ∧ u.cw = t.res.value ∧
        u.cw.extractLsb' 40 24 = 0 ∧
        ∀ f, exec (.frd (.named f)) u =
          .next { u with rsp := some { status := .ok, rdata := readField f t.res.value } })

/-! ## Working registers, frames over all instructions, and runs -/

/-- R42 (which the spec derives from R123 and R154): the result of an operation never depends on the working registers left by an earlier one:
with any others it answers the same and leaves everything else the same. -/
def Obligations.WorkingRegistersNeverReachAResult : Prop :=
  ∀ (i : Instr) (s : State) (d : DecWork) (x : TxWork), ∃ t d' x',
    exec i s = .next t ∧ exec i (withWorking d x s) = .next (withWorking d' x' t)

/-- R13, R40, R57: every instruction answers a next state, and none writes the buffer, an input, what
the agents will do, or a parameter; only CWWR, FWR, TWR and their pseudo-operations write CW (R20);
only DECODE writes a result register (R40); only SEND and the symbols it is made of reach the line. -/
def Obligations.EveryInstructionKeepsWhatIsNotItsOwn : Prop :=
  ∀ (i : Instr) (s : State), ∃ t, exec i s = .next t ∧
    t.buf = s.buf ∧ t.bufLen = s.bufLen ∧ t.bufOvf = s.bufOvf ∧ t.rst = s.rst ∧ t.tick = s.tick ∧
    t.host = s.host ∧ t.agents = s.agents ∧ t.level = s.level ∧ t.par = s.par ∧
    (t.cw = s.cw ∨ (∃ v, i = .cwwr v ∨ i = .accept v) ∨ (∃ f v, i = .fwr f v) ∨
      (∃ a b, i = .twr a b) ∨ i = .pwron ∨ i = .pwroff ∨ i = .unitc ∨ i = .unitf) ∧
    (i ≠ .decode → t.res = s.res ∧ t.dec = s.dec ∧ t.decBusy = s.decBusy) ∧
    ((∃ r, i = .send r) ∨ (t.tx = s.tx ∧ t.txBusy = s.txBusy)) ∧
    ((∃ r, i = .send r) ∨ i = .hdr ∨ i = .bit0 ∨ i = .bit1 ∨ i = .trail ∨ (∃ c, i = .cw40 c) ∨
      (t.line = s.line ∧ t.irOut = s.irOut))

/-- R190, R243: no run ever stops in a fault or a refusal of the model, from any state. -/
def Obligations.NoRunEverStops : Prop := ∀ s : State, SafeRun s

/-- R200, R201, R17: on an idle port at the operation level the step accepts the word the host
presents, runs the instruction it decodes to, gives its one response, and the word is gone; then the
agents take their move (the model's choice, log 2). The second clause says the same of a word placed by
`withFetchWord`, the model's own way to put a word on the port (log 18, DESIGN CHOICE: it clears `rst`
and both busy flags and sets the level), at the spec's RPT_W, with the table's decoder. -/
def Obligations.StepRunsTheDecodedInstruction : Prop :=
  (∀ (s : State) (w : OpWord) (rest : List OpWord),
    s.rst = false → s.busy = false → s.level = .operation → s.host = w :: rest →
    ∃ t r, exec (decodeOp s.par.rptW w) { s with host := rest, rsp := none } = .next t ∧
      step s = .next (agentsMove t) ∧ t.host = rest ∧ t.rsp = some r) ∧
  (∀ (s : State) (w : Nat), w < 2 ^ 72 → s.par.rptW = 8 → ∃ i t, decodeTableWord 72 w = some i ∧
    exec i { s with host := s.host, rsp := none, rst := false, txBusy := false, decBusy := false,
                    level := .operation } = .next t ∧
    step (s.withFetchWord 72 w) = .next (agentsMove t))

/-- R200, R121, R226: while an operation is in progress nothing is accepted: the words the host holds
wait, and CW is not written; a SEND in progress leaves the result registers, a DECODE the line. -/
def Obligations.NothingIsAcceptedWhileBusy : Prop :=
  ∀ s : State, s.rst = false → s.busy = true → ∃ t, step s = .next t ∧
    t.cw = s.cw ∧ (s.agents = [] → t.host = s.host) ∧
    (s.txBusy = true → t.res = s.res ∧ t.dec = s.dec) ∧
    (s.txBusy = false → t.line = s.line ∧ t.irOut = s.irOut ∧ t.tx = s.tx)

/-- R202, R243: with nothing on the port and nothing in progress the codec stays as it is: only the
pulse of an earlier response ends. No move of another agent alters the codec's registers. -/
def Obligations.NothingAsynchronousAltersTheCodec : Prop :=
  (∀ s : State, s.rst = false → s.busy = false → s.host = [] →
    step s = .next (agentsMove { s with rsp := none })) ∧
  (∀ s : State, (agentsMove s).cw = s.cw ∧ (agentsMove s).res = s.res ∧
    (agentsMove s).txBusy = s.txBusy ∧ (agentsMove s).decBusy = s.decBusy ∧
    (agentsMove s).dec = s.dec ∧ (agentsMove s).tx = s.tx ∧ (agentsMove s).irOut = s.irOut ∧
    (agentsMove s).rsp = s.rsp ∧ (agentsMove s).line = s.line)

/-- R29, R201: the response ports: status 3 is never produced, `rsp_status` and `op_rdata` show the
response while `rsp_valid` = 1, and `op_ready` is the negation of TX_BUSY or DEC_BUSY. -/
def Obligations.ResponsePortsShowTheResponse : Prop :=
  ∀ s : State, s.rspStatus ≠ 3 ∧ s.opReady = !(s.txBusy || s.decBusy) ∧
    (∀ v, s.rsp = some { status := .ok, rdata := v } →
      s.rspValid = true ∧ s.rspStatus = 0 ∧ s.opRdata = v) ∧
    (∀ v, s.rsp = some { status := .fail, rdata := v } →
      s.rspValid = true ∧ s.rspStatus = 1 ∧ s.opRdata = v) ∧
    (∀ v, s.rsp = some { status := .refused, rdata := v } →
      s.rspValid = true ∧ s.rspStatus = 2 ∧ s.opRdata = v) ∧
    (s.rsp = none → s.rspValid = false)

/-! ## The tick level (41_encoder.md R135 to R142, 42_decoder.md R175 to R178) -/

/-- R123, R136: acceptance of a SEND at the tick level. The first mark is on the line as a segment of
duration 0 that each tick lengthens (the model's choice of how the trace is kept, log 5); TX_TIMER
holds the ticks of 7000 microseconds, 7000 at the spec's TICK_US = 1 (log 11); then the agents move
(log 2). -/
def Obligations.AcceptedSendLoadsTheSequencer : Prop :=
  (∀ d : Nat, timerFor 1 d = BitVec.ofNat 13 d) ∧
  ∀ (s : State) (w : OpWord) (r : Nat) (rest : List OpWord),
    s.rst = false → s.busy = false → s.level = .tick → s.host = w :: rest → decodeOp s.par.rptW w = .send r →
    step s = .next (agentsMove { s with
      host := rest
      rsp := none
      txBusy := true
      tx := { state := .hdrM, timer := timerFor s.par.tickUs 7000, sr := s.cw.setWidth 40,
              bits := 40, frames := r + 1 }
      line := ⟨true, 0⟩ :: s.line
      irOut := true })

/-- R135, R137 to R141: one tick of a SEND in progress. The timer counts down (R135); when it goes from
1 to 0 the next segment is loaded in the same tick (R137 to R141); after the last frame the response is
given. TX_TIMER is loaded with d / TICK_US, the ticks of a segment of d microseconds, where R137 to R141
load d: that is the model's reading of R15 for a TICK_US other than 1 (log 11, DEDUCED), and d itself at
the spec's TICK_US = 1 (first clause). -/
def Obligations.EncoderSequencerTakesTheListedTransitions : Prop :=
  (∀ d : Nat, timerFor 1 d = BitVec.ofNat 13 d) ∧
  ∀ s : State, s.rst = false → s.txBusy = true → s.tick = true → s.agents = [] →
    (s.tx.state ≠ .idle → s.tx.timer ≠ 1 → ∃ t, step s = .next t ∧ t.rsp = none ∧
      t.tx = { s.tx with timer := s.tx.timer - 1 } ∧ t.txBusy = true ∧ t.irOut = s.irOut) ∧
    (s.tx.timer = 1 → s.tx.state = .hdrM → ∃ t, step s = .next t ∧ t.rsp = none ∧
      t.tx = { s.tx with state := .hdrS, timer := timerFor s.par.tickUs 4000 } ∧ t.irOut = false) ∧
    (s.tx.timer = 1 → s.tx.state = .hdrS → ∃ t, step s = .next t ∧ t.rsp = none ∧
      t.tx = { s.tx with
        state := .bitM
        timer := timerFor s.par.tickUs (if s.tx.sr.getLsbD 39 then 2400 else 720) } ∧
      t.irOut = true) ∧
    (s.tx.timer = 1 → s.tx.state = .bitM → ∃ t, step s = .next t ∧ t.rsp = none ∧
      t.tx = { s.tx with
        state := .bitS, timer := timerFor s.par.tickUs 840
        sr := s.tx.sr <<< 1, bits := s.tx.bits - 1 } ∧
      t.irOut = false) ∧
    (s.tx.timer = 1 → s.tx.state = .bitS → s.tx.bits ≠ 0 → ∃ t, step s = .next t ∧ t.rsp = none ∧
      t.tx = { s.tx with
        state := .bitM
        timer := timerFor s.par.tickUs (if s.tx.sr.getLsbD 39 then 2400 else 720) } ∧
      t.irOut = true) ∧
    (s.tx.timer = 1 → s.tx.state = .bitS → s.tx.bits = 0 → ∃ t, step s = .next t ∧ t.rsp = none ∧
      t.tx = { s.tx with state := .trail, timer := timerFor s.par.tickUs 1860 } ∧ t.irOut = false) ∧
    (s.tx.timer = 1 → s.tx.state = .trail → s.tx.frames - 1 ≠ 0 → ∃ t, step s = .next t ∧
      t.rsp = none ∧ t.irOut = true ∧
      t.tx = { state := .hdrM, timer := timerFor s.par.tickUs 7000, sr := s.cw.setWidth 40, bits := 40,
               frames := s.tx.frames - 1 }) ∧
    (s.tx.timer = 1 → s.tx.state = .trail → s.tx.frames - 1 = 0 → ∃ t, step s = .next t ∧
      t.rsp = some { status := .ok, rdata := 0 } ∧ t.txBusy = false ∧ t.irOut = s.irOut ∧
      t.tx = { s.tx with state := .idle, timer := 0, frames := 0 })

/-- R142 (which the spec derives from R130 and R135 to R141): the two levels of SEND agree. From an
idle codec at the tick level with a SEND on the port and the time base running, the encoder is busy and
has not answered for every one of the (R + 1) T_frame / TICK_US steps after acceptance but the last, and
that one leaves the state the operation level gives in one step: the same trace and the same response,
as R142 says, and the same working registers, which is the model's reading (log 7, DEDUCED). The
parameters are any the model admits (log 11); at the spec's TICK_US = 1 a step is a microsecond. -/
def Obligations.TickLevelSendAgreesWithTheOperation : Prop :=
  ∀ (s : State) (w : OpWord) (r : Nat) (rest : List OpWord),
    s.par.ok = true → s.rst = false → s.busy = false → s.level = .tick → s.tick = true →
    s.agents = [] → s.host = w :: rest → decodeOp s.par.rptW w = .send r →
    Host.Core.run core (1 + (r + 1) * (frameTime (s.cw.setWidth 40) / s.par.tickUs)) s =
      exec (.send r) { s with host := rest } ∧
    ∀ k, 1 ≤ k → k < 1 + (r + 1) * (frameTime (s.cw.setWidth 40) / s.par.tickUs) →
      ∃ t, Host.Core.run core k s = .next t ∧ t.txBusy = true ∧ t.rsp = none

/-- R177 (which the spec derives from R167, R168 and R176): the two levels of DECODE agree. From an idle
codec at the tick level with a DECODE on the port and no other agent moving, within LEN + 3 steps the
sequencer leaves the state the operation level gives in one step: the same final result, as R177 says,
and the same working registers, which is the model's reading (log 7, DEDUCED); until then it is busy and
has not answered. -/
def Obligations.TickLevelDecodeAgreesWithTheOperation : Prop :=
  ∀ (s : State) (w : OpWord) (rest : List OpWord),
    s.rst = false → s.busy = false → s.level = .tick → s.agents = [] →
    s.host = w :: rest → decodeOp s.par.rptW w = .decode →
    ∃ n, n ≤ s.bufLen + 3 ∧
      Host.Core.run core n s = exec .decode { s with host := rest } ∧
      ∀ k, 1 ≤ k → k < n → ∃ t, Host.Core.run core k s = .next t ∧ t.decBusy = true ∧ t.rsp = none

/-- R154, R155 and the tests of R152, R153, R156, R157 by the sequencer (R176): acceptance samples
`buf_len` and `buf_ovf`; CHECK fails or clears OFFSET, ACC and NBITS and computes the budget; each
header entry fails or moves OFFSET on by one. -/
def Obligations.DecoderSequencerReadsTheHeader : Prop :=
  (∀ (s : State) (w : OpWord) (rest : List OpWord),
    s.rst = false → s.busy = false → s.level = .tick → s.agents = [] → s.host = w :: rest →
    decodeOp s.par.rptW w = .decode →
    step s = .next { s with
      host := rest, rsp := none, decBusy := true
      dec := { s.dec with state := .check, lenQ := s.bufLen, ovfQ := s.bufOvf } }) ∧
  (∀ s : State, decoding s .check →
    (s.dec.ovfQ = true → nextFails s 10) ∧
    (s.dec.ovfQ = false → s.dec.lenQ < 82 → nextFails s 1) ∧
    (s.dec.ovfQ = false → 82 ≤ s.dec.lenQ → nextGoesOn s
      { s.dec with
        state := .hdrM, offset := 0, acc := 0, nbits := 0
        maxBits := BitVec.ofNat 7 (min 64 ((s.dec.lenQ - 2) / 2)) })) ∧
  (∀ s : State, decoding s .hdrM →
    (matchDur s.par.tolPct (s.buf.read 0) 7000 = false → nextFails s 2) ∧
    (matchDur s.par.tolPct (s.buf.read 0) 7000 = true →
      nextGoesOn s { s.dec with state := .hdrS, offset := s.dec.offset + 1 })) ∧
  (∀ s : State, decoding s .hdrS →
    (matchDur s.par.tolPct (s.buf.read 1) 4000 = false → nextFails s 3) ∧
    (matchDur s.par.tolPct (s.buf.read 1) 4000 = true →
      nextGoesOn s { s.dec with state := .bitM, offset := s.dec.offset + 1 }))

/-- R158, R159, R166 by the sequencer: the budget is tested first, then the bound; a mark that matches
720 shifts in a 0, one that matches 2400 a 1, and any other fails the decode. -/
def Obligations.DecoderSequencerReadsAMark : Prop :=
  ∀ s : State, decoding s .bitM →
    (s.dec.maxBits.toNat ≤ s.dec.nbits.toNat → nextFails s 9) ∧
    (s.dec.nbits.toNat < s.dec.maxBits.toNat → s.dec.lenQ ≤ s.dec.offset →
      nextFails s 8) ∧
    (s.dec.nbits.toNat < s.dec.maxBits.toNat → s.dec.offset < s.dec.lenQ →
      (matchDur s.par.tolPct (s.buf.read s.dec.offset) 720 = true → nextGoesOn s
        { s.dec with
          state := .afterM, acc := s.dec.acc <<< 1
          offset := s.dec.offset + 1, nbits := s.dec.nbits + 1 }) ∧
      (matchDur s.par.tolPct (s.buf.read s.dec.offset) 720 = false →
        matchDur s.par.tolPct (s.buf.read s.dec.offset) 2400 = true → nextGoesOn s
        { s.dec with
          state := .afterM, acc := (s.dec.acc <<< 1) ||| 1
          offset := s.dec.offset + 1, nbits := s.dec.nbits + 1 }) ∧
      (matchDur s.par.tolPct (s.buf.read s.dec.offset) 720 = false →
        matchDur s.par.tolPct (s.buf.read s.dec.offset) 2400 = false → nextFails s 4))

/-- R161 to R165 by the sequencer: after a mark the clean end is tried first, then the repeat boundary
and the header behind it, then the inter-bit space. -/
def Obligations.DecoderSequencerInspectsTheSpace : Prop :=
  (∀ s : State, decoding s .afterM →
    (s.dec.nbits = 40 → s.dec.lenQ ≤ s.dec.offset + 1 → ∃ t, step s = .next t ∧
      t.res = { ok := true, value := s.dec.acc, bits := 40, addr := 0, cmd := 0, failCode := 0 } ∧
      t.cw = s.cw ∧ t.decBusy = false ∧ t.dec.state = .idle ∧
      t.rsp = some { status := .ok, rdata := 0 }) ∧
    (¬(s.dec.nbits = 40 ∧ s.dec.lenQ ≤ s.dec.offset + 1) →
      (s.dec.lenQ ≤ s.dec.offset → nextFails s 8) ∧
      (s.dec.offset < s.dec.lenQ →
        (matchDur s.par.tolPct (s.buf.read s.dec.offset) 2700 = true →
          nextGoesOn s { s.dec with state := .rsyM, acc := 0, nbits := 0 }) ∧
        (matchDur s.par.tolPct (s.buf.read s.dec.offset) 2700 = false →
          matchDur s.par.tolPct (s.buf.read s.dec.offset) 840 = true →
          nextGoesOn s { s.dec with state := .bitM, offset := s.dec.offset + 1 }) ∧
        (matchDur s.par.tolPct (s.buf.read s.dec.offset) 2700 = false →
          matchDur s.par.tolPct (s.buf.read s.dec.offset) 840 = false → nextFails s 5)))) ∧
  (∀ s : State, decoding s .rsyM →
    (s.dec.lenQ ≤ s.dec.offset + 1 ∨
      matchDur s.par.tolPct (s.buf.read (s.dec.offset + 1)) 7000 = false → nextFails s 6) ∧
    (s.dec.offset + 1 < s.dec.lenQ →
      matchDur s.par.tolPct (s.buf.read (s.dec.offset + 1)) 7000 = true →
      nextGoesOn s { s.dec with state := .rsyS })) ∧
  (∀ s : State, decoding s .rsyS →
    (s.dec.lenQ ≤ s.dec.offset + 2 ∨
      matchDur s.par.tolPct (s.buf.read (s.dec.offset + 2)) 4000 = false → nextFails s 7) ∧
    (s.dec.offset + 2 < s.dec.lenQ →
      matchDur s.par.tolPct (s.buf.read (s.dec.offset + 2)) 4000 = true →
      nextGoesOn s { s.dec with state := .bitM, offset := s.dec.offset + 3 }))

/-- R178: a change of `buf_len` or `buf_ovf` during a DECODE has no effect on it. -/
def Obligations.DecodeInProgressIgnoresTheDeclaration : Prop :=
  ∀ (s : State) (len : Nat) (ovf : Bool),
    s.rst = false → s.txBusy = false → s.decBusy = true → s.agents = [] →
    ∃ t, step s = .next t ∧
      step { s with bufLen := len, bufOvf := ovf } = .next { t with bufLen := len, bufOvf := ovf }

/-- R244, R158: in a sane state a DECODE in progress depends on no entry at or past the sampled
length. -/
def Obligations.DecodeInProgressReadsNothingPastItsLength : Prop :=
  ∀ (s : State) (m : Memory),
    Inv s → s.rst = false → s.decBusy = true → s.agents = [] → agreeBelow s.dec.lenQ s.buf m →
    ∃ t, step s = .next t ∧ step { s with buf := m } = .next { t with buf := m }

/-- R244, U16: while the time base stands still a SEND in progress stays as it is for ever: the line
holds its level, no response is given and nothing is accepted. -/
def Obligations.StoppedTimeBaseHoldsTheSend : Prop :=
  ∀ s : State, s.rst = false → s.txBusy = true → s.tick = false → s.agents = [] →
    ∀ k, Host.Core.run core (k + 1) s = .next { s with rsp := none }

/-! ## The buffer -/

/-- R13, R50: the capture collaborator's write of one entry is read back, and every other entry reads
as before. -/
def Obligations.StoredEntryIsReadBackAndNoOtherChanges : Prop :=
  ∀ (p : Params) (m : Memory) (i j : Nat) (d : Nat), m.wf p = true →
    (m.write i d).read j = if j = i then d else m.read j

/-- R50: a handed-over capture reads back entry by entry, and two buffers that read alike at every
index are the same buffer. -/
def Obligations.BufferIsDeterminedByWhatItReads : Prop :=
  (∀ (es : List Nat) (j : Nat) (d : Nat), es[j]? = some d → (Memory.ofEntries 0 es).read j = d) ∧
  (∀ (p : Params) (a b : Memory), a.wf p = true → b.wf p = true → (∀ i, a.read i = b.read i) → a = b)

/-! ## The invariant -/

/-- The invariant holds right after reset. -/
def Obligations.InvariantHoldsAtReset : Prop := Inv State.reset

/-- R24 to R28, R33, R36, R38, R39, R135 and the canonical form of the buffer: every step from a sane
state ends in a sane state, at both levels, in the middle of a SEND or a DECODE, whatever the other
agents do. -/
def Obligations.EveryStepKeepsTheInvariant : Prop :=
  ∀ s t : State, Inv s → step s = .next t → Inv t

/-! ## The parameters -/

/-- R8, R40: the parameters have the spec's values in State.reset, they are parameters the model admits
(log 11), and no step changes one: they are the configuration of the machine and no state of it. -/
def Obligations.ParametersAreFixedForTheMachine : Prop :=
  State.reset.par =
    { tolPct := 25, durW := 16, lenW := 16, rptW := 8, tickUs := 1, addrW := 32, cmdW := 32 } ∧
  State.reset.par.ok = true ∧
  ∀ s t : State, step s = .next t → t.par = s.par
end

