-- ==== Sys2Proof/Laws/Encoding.lean ====
section
/-! SUPPORT. The parts of an operation word and of a command word (30_encoding.md R70, R83). -/

namespace Sys2Proof

@[simp] theorem opcOf_opWord (o k : BitVec 4) (d : Word64) : opcOf (opWord o k d) = o := by
  apply BitVec.eq_of_getLsbD_eq
  intro i hi
  simp only [opcOf, opWord, BitVec.getLsbD_extractLsb', BitVec.getLsbD_append, hi, decide_true,
    Bool.true_and]
  rw [if_neg (by omega), if_neg (by omega)]
  congr 1
  omega

@[simp] theorem selOf_opWord (o k : BitVec 4) (d : Word64) : selOf (opWord o k d) = k := by
  apply BitVec.eq_of_getLsbD_eq
  intro i hi
  simp only [selOf, opWord, BitVec.getLsbD_extractLsb', BitVec.getLsbD_append, hi, decide_true,
    Bool.true_and]
  rw [if_neg (by omega), if_pos (by omega)]
  congr 1
  omega

@[simp] theorem dataOf_opWord (o k : BitVec 4) (d : Word64) : dataOf (opWord o k d) = d := by
  apply BitVec.eq_of_getLsbD_eq
  intro i hi
  simp only [dataOf, opWord, BitVec.getLsbD_extractLsb', BitVec.getLsbD_append, hi, decide_true,
    Bool.true_and, Nat.zero_add, if_true]

/-- A word is its three parts. -/
theorem opWord_parts (w : OpWord) : opWord (opcOf w) (selOf w) (dataOf w) = w := by
  apply BitVec.eq_of_getLsbD_eq
  intro i hi
  simp only [opcOf, selOf, dataOf, opWord, BitVec.getLsbD_extractLsb', BitVec.getLsbD_append]
  by_cases h1 : i < 64
  · simp [h1]
  · by_cases h2 : i - 64 < 4
    · simp only [h1, h2, if_false, if_true, decide_true, Bool.true_and]
      congr 1
      omega
    · simp only [h1, h2, if_false, show i - 64 - 4 < 4 by omega, decide_true, Bool.true_and]
      congr 1
      omega

/-- The code of a named field reads back as that field (R85). -/
@[simp] theorem fieldSelector_code (f : FieldName) : fieldSelector (fieldCode f) = .named f := by
  cases f <;> rfl

/-- The code of a result register reads back as that register (R87). -/
@[simp] theorem resultSelector_code (q : ResultName) :
    resultSelector (resultCode q) = .named q := by
  cases q <;> rfl

/-- A reserved field selector stays itself (R85). -/
theorem fieldSelector_reserved {k : BitVec 4} (h : 5 ≤ k.toNat) :
    fieldSelector k = .reserved k := by
  unfold fieldSelector
  split <;> first | rfl | (exfalso; omega)

/-- A reserved result selector stays itself (R87). -/
theorem resultSelector_reserved {k : BitVec 4} (h : 6 ≤ k.toNat) :
    resultSelector k = .reserved k := by
  unfold resultSelector
  split <;> first | rfl | (exfalso; omega)

end Sys2Proof
end

