-- ==== Sys2Proof/Laws/Fields.lean ====
section
/-! SUPPORT. Fields of the command word bit by bit (30_encoding.md R71). -/

namespace Sys2Proof.Machine

/-- Bit i of MASK(w) is 1 exactly below w. -/
theorem mask_getLsbD (w i : Nat) (h : w ≤ 64) : (mask w).getLsbD i = decide (i < w) := by
  unfold mask
  rw [BitVec.getLsbD_ofNat, Nat.testBit_two_pow_sub_one]
  by_cases hi : i < w
  · simp only [hi, decide_true, Bool.and_true, decide_eq_true_eq]
    omega
  · simp [hi]

/-- Bit i of the field is bit s + i of the word, and 0 from the width on. -/
theorem fieldRead_getLsbD (cw : Word64) (s w i : Nat) (h : w ≤ 64) :
    (fieldRead cw s w).getLsbD i = (cw.getLsbD (s + i) && decide (i < w)) := by
  simp [fieldRead, mask_getLsbD, h]

/-- Writing a field changes exactly its bits. -/
theorem fieldWrite_getLsbD (cw v : Word64) (s w i : Nat) (hw : w ≤ 64) (hi : i < 64) :
    (fieldWrite cw s w v).getLsbD i =
      if s ≤ i ∧ i < s + w then v.getLsbD (i - s) else cw.getLsbD i := by
  simp only [fieldWrite, BitVec.getLsbD_or, BitVec.getLsbD_and, BitVec.getLsbD_not,
    BitVec.getLsbD_shiftLeft, mask_getLsbD _ _ hw, hi, decide_true, Bool.true_and]
  by_cases h1 : i < s
  · simp [h1, show ¬ (s ≤ i) by omega]
  · by_cases h2 : i - s < w
    · simp [h1, h2, show s ≤ i ∧ i < s + w by omega]
    · simp [h1, h2, show ¬ (s ≤ i ∧ i < s + w) by omega]

/-- Writing the temperatures changes exactly CW[15:0]. -/
theorem writeTemperatures_getLsbD (tf tc : BitVec 8) (cw : Word64) (i : Nat) (hi : i < 64) :
    (writeTemperatures tf tc cw).getLsbD i =
      if i < 8 then tc.getLsbD i else if i < 16 then tf.getLsbD (i - 8) else cw.getLsbD i := by
  have h16 : (0xFFFF#64).getLsbD i = decide (i < 16) := by
    have := mask_getLsbD 16 i (by omega)
    exact this
  simp only [writeTemperatures, BitVec.getLsbD_or, BitVec.getLsbD_and, BitVec.getLsbD_not, h16, hi,
    decide_true, Bool.true_and, BitVec.getLsbD_setWidth, BitVec.getLsbD_append]
  by_cases h8 : i < 8
  · simp [h8, show i < 16 by omega]
  · by_cases h : i < 16
    · simp [h8, h]
    · simp [h8, h, BitVec.getLsbD_of_ge tf (i - 8) (by omega)]

/-- The fields lie apart: no bit is in two of them. -/
theorem fields_apart {f g : FieldName} (h : f ≠ g) (i : Nat) :
    ¬((fieldShift f ≤ i ∧ i < fieldShift f + fieldWidth f) ∧
      (fieldShift g ≤ i ∧ i < fieldShift g + fieldWidth g)) := by
  cases f <;> cases g <;> simp [fieldShift, fieldWidth] at h ⊢ <;> omega

end Sys2Proof.Machine
end

