-- ==== Sys2Proof/Laws/Memory.lean ====
section
/-! SUPPORT. The buffer keeps its canonical form under every operation on it. -/

namespace Sys2Proof.Machine

theorem Memory.wfFrom_mono {p : Params} {m : Memory} : ∀ {lo lo' : Nat}, lo' ≤ lo →
    m.wfFrom p lo = true → m.wfFrom p lo' = true := by
  intro lo lo' h hm
  cases m with
  | nil => rfl
  | cons c rest =>
    simp only [Memory.wfFrom, Bool.and_eq_true, decide_eq_true_eq] at hm ⊢
    exact ⟨⟨⟨⟨by omega, hm.1.1.1.2⟩, hm.1.1.2⟩, hm.1.2⟩, hm.2⟩

/-- A write at or above `lo`, of an index and an entry of the machine's widths, keeps the form from
`lo`. -/
theorem Memory.write_wfFrom {p : Params} (m : Memory) : ∀ (lo i : Nat) (d : Nat), lo ≤ i →
    i < 2 ^ p.lenW → d < 2 ^ p.durW → m.wfFrom p lo = true → (m.write i d).wfFrom p lo = true := by
  induction m with
  | nil =>
    intro lo i d h1 h2 h3 _
    by_cases hd : d = unlistedEntry
    · simp [Memory.write, Memory.wfFrom, hd]
    · simp [Memory.write, Memory.wfFrom, hd, h1, h2, h3]
  | cons c rest ih =>
    obtain ⟨k, e⟩ := c
    intro lo i d h1 h2 h3 hm
    simp only [Memory.wfFrom, Bool.and_eq_true, decide_eq_true_eq] at hm
    obtain ⟨⟨⟨⟨hk, hk'⟩, he'⟩, he⟩, hrest⟩ := hm
    unfold Memory.write
    split
    · split <;> simp [Memory.wfFrom, *]
    · split
      · subst i
        split
        · exact Memory.wfFrom_mono (by omega) hrest
        · simp [Memory.wfFrom, *]
      · simp [Memory.wfFrom, hk, hk', he', he, ih (k + 1) i d (by omega) h2 h3 hrest]

theorem entryOf_lt (durW d : Nat) : entryOf durW d < 2 ^ durW := by
  have := Nat.two_pow_pos durW
  unfold entryOf
  omega

theorem lenBits_lt (p : Params) (n : Nat) : lenBits p n < 2 ^ p.lenW :=
  Nat.mod_lt _ (Nat.two_pow_pos _)

theorem declarable_length_lt (p : Params) (es : List Nat) :
    (declarable p es).length < 2 ^ p.lenW := by
  have := Nat.two_pow_pos p.lenW
  simp only [declarable, List.length_map, List.length_take]
  omega

theorem declarable_lt {p : Params} {es : List Nat} {d : Nat} (h : d ∈ declarable p es) :
    d < 2 ^ p.durW := by
  obtain ⟨e, -, rfl⟩ := List.mem_map.mp h
  exact entryOf_lt _ _

/-- The capture collaborator's write keeps the canonical form. -/
theorem Memory.write_wf {p : Params} {m : Memory} (i : Nat) (d : Nat) (hm : m.wf p = true) :
    (m.write (lenBits p i) (entryOf p.durW d)).wf p = true :=
  Memory.write_wfFrom m 0 _ _ (Nat.zero_le _) (lenBits_lt p i) (entryOf_lt _ d) hm

theorem Memory.ofEntries_wfFrom {p : Params} (es : List Nat) : ∀ i : Nat,
    i + es.length ≤ 2 ^ p.lenW → (∀ d ∈ es, d < 2 ^ p.durW) →
    (Memory.ofEntries i es).wfFrom p i = true := by
  induction es with
  | nil => intro i _ _; rfl
  | cons d rest ih =>
    intro i h hd
    simp only [List.length_cons] at h
    have hr := ih (i + 1) (by omega) (fun e he => hd e (List.mem_cons_of_mem d he))
    have h0 := hd d List.mem_cons_self
    unfold Memory.ofEntries
    split
    · exact Memory.wfFrom_mono (by omega) hr
    · simp_all [Memory.wfFrom]
      omega

/-- A handed-over capture is in canonical form. -/
theorem Memory.capture_wf (p : Params) (es : List Nat) :
    (Memory.ofEntries 0 (declarable p es)).wf p = true := by
  apply Memory.ofEntries_wfFrom
  · have := declarable_length_lt p es
    omega
  · exact fun d h => declarable_lt h

/-- Nothing below the least listed index is listed. -/
theorem Memory.read_below {p : Params} {m : Memory} : ∀ {lo i : Nat}, i < lo →
    m.wfFrom p lo = true → m.read i = unlistedEntry := by
  induction m with
  | nil => intro lo i _ _; rfl
  | cons c rest ih =>
    obtain ⟨k, d⟩ := c
    intro lo i h hm
    simp only [Memory.wfFrom, Bool.and_eq_true, decide_eq_true_eq] at hm
    unfold Memory.read
    rw [if_neg (by omega)]
    exact ih (by omega) hm.2

/-- Right after reset the buffer is in canonical form. -/
theorem reset_buf_wf : State.reset.buf.wf State.reset.par = true := rfl

/-- No move of another agent changes a parameter of the machine. -/
@[simp] theorem applyMove_par (m : AgentMove) (s : State) : (applyMove m s).par = s.par := by
  cases m <;> rfl

@[simp] theorem agentsMove_par (s : State) : (agentsMove s).par = s.par := by
  unfold agentsMove
  split <;> simp

/-- Every move of the other agents keeps the canonical form of the buffer. -/
theorem applyMove_wf (m : AgentMove) (s : State) (h : s.buf.wf s.par = true) :
    (applyMove m s).buf.wf s.par = true := by
  cases m with
  | pause => exact h
  | present w => exact h
  | setRst b => exact h
  | setTick b => exact h
  | capture es ovf => exact Memory.capture_wf s.par es
  | store i d => exact Memory.write_wf i d h
  | declare len ovf => exact h

/-- Every move of the other agents keeps `buf_len` within LEN_W bits. -/
theorem applyMove_bufLen (m : AgentMove) (s : State) (h : s.bufLen < 2 ^ s.par.lenW) :
    (applyMove m s).bufLen < 2 ^ s.par.lenW := by
  cases m with
  | pause => exact h
  | present w => exact h
  | setRst b => exact h
  | setTick b => exact h
  | capture es ovf => exact declarable_length_lt s.par es
  | store i d => exact h
  | declare len ovf => exact lenBits_lt s.par len

/-- The agents' move after a step keeps the canonical form of the buffer. -/
theorem agentsMove_wf (s : State) (h : s.buf.wf s.par = true) :
    (agentsMove s).buf.wf s.par = true := by
  unfold agentsMove
  split
  · exact h
  · rename_i m rest _
    exact applyMove_wf m { s with agents := rest } h

theorem agentsMove_bufLen (s : State) (h : s.bufLen < 2 ^ s.par.lenW) :
    (agentsMove s).bufLen < 2 ^ s.par.lenW := by
  unfold agentsMove
  split
  · exact h
  · rename_i m rest _
    exact applyMove_bufLen m { s with agents := rest } h

end Sys2Proof.Machine
end

