-- ==== Sys2Proof/Laws/State.lean ====
section
/-! SUPPORT. What each update of State does to each field: the fields it writes, and every other
field unchanged. -/

namespace Sys2Proof.Machine

/-! ## respond -/

@[simp] theorem respond_cw (st : Status) (v : Word64) (s : State) :
    (respond st v s).cw = s.cw := rfl
@[simp] theorem respond_res (st : Status) (v : Word64) (s : State) :
    (respond st v s).res = s.res := rfl
@[simp] theorem respond_txBusy (st : Status) (v : Word64) (s : State) :
    (respond st v s).txBusy = s.txBusy := rfl
@[simp] theorem respond_decBusy (st : Status) (v : Word64) (s : State) :
    (respond st v s).decBusy = s.decBusy := rfl
@[simp] theorem respond_dec (st : Status) (v : Word64) (s : State) :
    (respond st v s).dec = s.dec := rfl
@[simp] theorem respond_tx (st : Status) (v : Word64) (s : State) :
    (respond st v s).tx = s.tx := rfl
@[simp] theorem respond_irOut (st : Status) (v : Word64) (s : State) :
    (respond st v s).irOut = s.irOut := rfl
@[simp] theorem respond_rsp (st : Status) (v : Word64) (s : State) :
    (respond st v s).rsp = some { status := st, rdata := v } := rfl
@[simp] theorem respond_line (st : Status) (v : Word64) (s : State) :
    (respond st v s).line = s.line := rfl
@[simp] theorem respond_rst (st : Status) (v : Word64) (s : State) :
    (respond st v s).rst = s.rst := rfl
@[simp] theorem respond_tick (st : Status) (v : Word64) (s : State) :
    (respond st v s).tick = s.tick := rfl
@[simp] theorem respond_host (st : Status) (v : Word64) (s : State) :
    (respond st v s).host = s.host := rfl
@[simp] theorem respond_bufLen (st : Status) (v : Word64) (s : State) :
    (respond st v s).bufLen = s.bufLen := rfl
@[simp] theorem respond_bufOvf (st : Status) (v : Word64) (s : State) :
    (respond st v s).bufOvf = s.bufOvf := rfl
@[simp] theorem respond_buf (st : Status) (v : Word64) (s : State) :
    (respond st v s).buf = s.buf := rfl
@[simp] theorem respond_agents (st : Status) (v : Word64) (s : State) :
    (respond st v s).agents = s.agents := rfl
@[simp] theorem respond_level (st : Status) (v : Word64) (s : State) :
    (respond st v s).level = s.level := rfl
@[simp] theorem respond_par (st : Status) (v : Word64) (s : State) :
    (respond st v s).par = s.par := rfl

/-! ## noResponse -/

@[simp] theorem noResponse_cw (s : State) :
    (noResponse s).cw = s.cw := rfl
@[simp] theorem noResponse_res (s : State) :
    (noResponse s).res = s.res := rfl
@[simp] theorem noResponse_txBusy (s : State) :
    (noResponse s).txBusy = s.txBusy := rfl
@[simp] theorem noResponse_decBusy (s : State) :
    (noResponse s).decBusy = s.decBusy := rfl
@[simp] theorem noResponse_dec (s : State) :
    (noResponse s).dec = s.dec := rfl
@[simp] theorem noResponse_tx (s : State) :
    (noResponse s).tx = s.tx := rfl
@[simp] theorem noResponse_irOut (s : State) :
    (noResponse s).irOut = s.irOut := rfl
@[simp] theorem noResponse_rsp (s : State) :
    (noResponse s).rsp = none := rfl
@[simp] theorem noResponse_line (s : State) :
    (noResponse s).line = s.line := rfl
@[simp] theorem noResponse_rst (s : State) :
    (noResponse s).rst = s.rst := rfl
@[simp] theorem noResponse_tick (s : State) :
    (noResponse s).tick = s.tick := rfl
@[simp] theorem noResponse_host (s : State) :
    (noResponse s).host = s.host := rfl
@[simp] theorem noResponse_bufLen (s : State) :
    (noResponse s).bufLen = s.bufLen := rfl
@[simp] theorem noResponse_bufOvf (s : State) :
    (noResponse s).bufOvf = s.bufOvf := rfl
@[simp] theorem noResponse_buf (s : State) :
    (noResponse s).buf = s.buf := rfl
@[simp] theorem noResponse_agents (s : State) :
    (noResponse s).agents = s.agents := rfl
@[simp] theorem noResponse_level (s : State) :
    (noResponse s).level = s.level := rfl
@[simp] theorem noResponse_par (s : State) :
    (noResponse s).par = s.par := rfl

/-! ## refuse -/

@[simp] theorem refuse_cw (k : Word64) (s : State) :
    (refuse k s).cw = s.cw := rfl
@[simp] theorem refuse_res (k : Word64) (s : State) :
    (refuse k s).res = s.res := rfl
@[simp] theorem refuse_txBusy (k : Word64) (s : State) :
    (refuse k s).txBusy = s.txBusy := rfl
@[simp] theorem refuse_decBusy (k : Word64) (s : State) :
    (refuse k s).decBusy = s.decBusy := rfl
@[simp] theorem refuse_dec (k : Word64) (s : State) :
    (refuse k s).dec = s.dec := rfl
@[simp] theorem refuse_tx (k : Word64) (s : State) :
    (refuse k s).tx = s.tx := rfl
@[simp] theorem refuse_irOut (k : Word64) (s : State) :
    (refuse k s).irOut = s.irOut := rfl
@[simp] theorem refuse_rsp (k : Word64) (s : State) :
    (refuse k s).rsp = some { status := .refused, rdata := k } := rfl
@[simp] theorem refuse_line (k : Word64) (s : State) :
    (refuse k s).line = s.line := rfl
@[simp] theorem refuse_rst (k : Word64) (s : State) :
    (refuse k s).rst = s.rst := rfl
@[simp] theorem refuse_tick (k : Word64) (s : State) :
    (refuse k s).tick = s.tick := rfl
@[simp] theorem refuse_host (k : Word64) (s : State) :
    (refuse k s).host = s.host := rfl
@[simp] theorem refuse_bufLen (k : Word64) (s : State) :
    (refuse k s).bufLen = s.bufLen := rfl
@[simp] theorem refuse_bufOvf (k : Word64) (s : State) :
    (refuse k s).bufOvf = s.bufOvf := rfl
@[simp] theorem refuse_buf (k : Word64) (s : State) :
    (refuse k s).buf = s.buf := rfl
@[simp] theorem refuse_agents (k : Word64) (s : State) :
    (refuse k s).agents = s.agents := rfl
@[simp] theorem refuse_level (k : Word64) (s : State) :
    (refuse k s).level = s.level := rfl
@[simp] theorem refuse_par (k : Word64) (s : State) :
    (refuse k s).par = s.par := rfl

/-! ## setCw -/

@[simp] theorem setCw_cw (v : Word64) (s : State) :
    (setCw v s).cw = v := rfl
@[simp] theorem setCw_res (v : Word64) (s : State) :
    (setCw v s).res = s.res := rfl
@[simp] theorem setCw_txBusy (v : Word64) (s : State) :
    (setCw v s).txBusy = s.txBusy := rfl
@[simp] theorem setCw_decBusy (v : Word64) (s : State) :
    (setCw v s).decBusy = s.decBusy := rfl
@[simp] theorem setCw_dec (v : Word64) (s : State) :
    (setCw v s).dec = s.dec := rfl
@[simp] theorem setCw_tx (v : Word64) (s : State) :
    (setCw v s).tx = s.tx := rfl
@[simp] theorem setCw_irOut (v : Word64) (s : State) :
    (setCw v s).irOut = s.irOut := rfl
@[simp] theorem setCw_rsp (v : Word64) (s : State) :
    (setCw v s).rsp = s.rsp := rfl
@[simp] theorem setCw_line (v : Word64) (s : State) :
    (setCw v s).line = s.line := rfl
@[simp] theorem setCw_rst (v : Word64) (s : State) :
    (setCw v s).rst = s.rst := rfl
@[simp] theorem setCw_tick (v : Word64) (s : State) :
    (setCw v s).tick = s.tick := rfl
@[simp] theorem setCw_host (v : Word64) (s : State) :
    (setCw v s).host = s.host := rfl
@[simp] theorem setCw_bufLen (v : Word64) (s : State) :
    (setCw v s).bufLen = s.bufLen := rfl
@[simp] theorem setCw_bufOvf (v : Word64) (s : State) :
    (setCw v s).bufOvf = s.bufOvf := rfl
@[simp] theorem setCw_buf (v : Word64) (s : State) :
    (setCw v s).buf = s.buf := rfl
@[simp] theorem setCw_agents (v : Word64) (s : State) :
    (setCw v s).agents = s.agents := rfl
@[simp] theorem setCw_level (v : Word64) (s : State) :
    (setCw v s).level = s.level := rfl
@[simp] theorem setCw_par (v : Word64) (s : State) :
    (setCw v s).par = s.par := rfl

/-! ## emit -/

@[simp] theorem emit_cw (g : List Segment) (s : State) :
    (emit g s).cw = s.cw := rfl
@[simp] theorem emit_res (g : List Segment) (s : State) :
    (emit g s).res = s.res := rfl
@[simp] theorem emit_txBusy (g : List Segment) (s : State) :
    (emit g s).txBusy = s.txBusy := rfl
@[simp] theorem emit_decBusy (g : List Segment) (s : State) :
    (emit g s).decBusy = s.decBusy := rfl
@[simp] theorem emit_dec (g : List Segment) (s : State) :
    (emit g s).dec = s.dec := rfl
@[simp] theorem emit_tx (g : List Segment) (s : State) :
    (emit g s).tx = s.tx := rfl
@[simp] theorem emit_irOut (g : List Segment) (s : State) :
    (emit g s).irOut = lastLevel s.irOut g := rfl
@[simp] theorem emit_rsp (g : List Segment) (s : State) :
    (emit g s).rsp = s.rsp := rfl
@[simp] theorem emit_line (g : List Segment) (s : State) :
    (emit g s).line = g.reverse ++ s.line := rfl
@[simp] theorem emit_rst (g : List Segment) (s : State) :
    (emit g s).rst = s.rst := rfl
@[simp] theorem emit_tick (g : List Segment) (s : State) :
    (emit g s).tick = s.tick := rfl
@[simp] theorem emit_host (g : List Segment) (s : State) :
    (emit g s).host = s.host := rfl
@[simp] theorem emit_bufLen (g : List Segment) (s : State) :
    (emit g s).bufLen = s.bufLen := rfl
@[simp] theorem emit_bufOvf (g : List Segment) (s : State) :
    (emit g s).bufOvf = s.bufOvf := rfl
@[simp] theorem emit_buf (g : List Segment) (s : State) :
    (emit g s).buf = s.buf := rfl
@[simp] theorem emit_agents (g : List Segment) (s : State) :
    (emit g s).agents = s.agents := rfl
@[simp] theorem emit_level (g : List Segment) (s : State) :
    (emit g s).level = s.level := rfl
@[simp] theorem emit_par (g : List Segment) (s : State) :
    (emit g s).par = s.par := rfl

/-! ## startSegment -/

@[simp] theorem startSegment_cw (b : Bool) (s : State) :
    (startSegment b s).cw = s.cw := rfl
@[simp] theorem startSegment_res (b : Bool) (s : State) :
    (startSegment b s).res = s.res := rfl
@[simp] theorem startSegment_txBusy (b : Bool) (s : State) :
    (startSegment b s).txBusy = s.txBusy := rfl
@[simp] theorem startSegment_decBusy (b : Bool) (s : State) :
    (startSegment b s).decBusy = s.decBusy := rfl
@[simp] theorem startSegment_dec (b : Bool) (s : State) :
    (startSegment b s).dec = s.dec := rfl
@[simp] theorem startSegment_tx (b : Bool) (s : State) :
    (startSegment b s).tx = s.tx := rfl
@[simp] theorem startSegment_irOut (b : Bool) (s : State) :
    (startSegment b s).irOut = b := rfl
@[simp] theorem startSegment_rsp (b : Bool) (s : State) :
    (startSegment b s).rsp = s.rsp := rfl
@[simp] theorem startSegment_line (b : Bool) (s : State) :
    (startSegment b s).line = ⟨b, 0⟩ :: s.line := rfl
@[simp] theorem startSegment_rst (b : Bool) (s : State) :
    (startSegment b s).rst = s.rst := rfl
@[simp] theorem startSegment_tick (b : Bool) (s : State) :
    (startSegment b s).tick = s.tick := rfl
@[simp] theorem startSegment_host (b : Bool) (s : State) :
    (startSegment b s).host = s.host := rfl
@[simp] theorem startSegment_bufLen (b : Bool) (s : State) :
    (startSegment b s).bufLen = s.bufLen := rfl
@[simp] theorem startSegment_bufOvf (b : Bool) (s : State) :
    (startSegment b s).bufOvf = s.bufOvf := rfl
@[simp] theorem startSegment_buf (b : Bool) (s : State) :
    (startSegment b s).buf = s.buf := rfl
@[simp] theorem startSegment_agents (b : Bool) (s : State) :
    (startSegment b s).agents = s.agents := rfl
@[simp] theorem startSegment_level (b : Bool) (s : State) :
    (startSegment b s).level = s.level := rfl
@[simp] theorem startSegment_par (b : Bool) (s : State) :
    (startSegment b s).par = s.par := rfl

/-! ## decodeOk -/

@[simp] theorem decodeOk_cw (s : State) :
    (decodeOk s).cw = s.cw := rfl
@[simp] theorem decodeOk_res (s : State) :
    (decodeOk s).res = successResults s.dec.acc := rfl
@[simp] theorem decodeOk_txBusy (s : State) :
    (decodeOk s).txBusy = s.txBusy := rfl
@[simp] theorem decodeOk_decBusy (s : State) :
    (decodeOk s).decBusy = false := rfl
@[simp] theorem decodeOk_dec (s : State) :
    (decodeOk s).dec = { s.dec with state := .idle } := rfl
@[simp] theorem decodeOk_tx (s : State) :
    (decodeOk s).tx = s.tx := rfl
@[simp] theorem decodeOk_irOut (s : State) :
    (decodeOk s).irOut = s.irOut := rfl
@[simp] theorem decodeOk_rsp (s : State) :
    (decodeOk s).rsp = some { status := .ok, rdata := 0 } := rfl
@[simp] theorem decodeOk_line (s : State) :
    (decodeOk s).line = s.line := rfl
@[simp] theorem decodeOk_rst (s : State) :
    (decodeOk s).rst = s.rst := rfl
@[simp] theorem decodeOk_tick (s : State) :
    (decodeOk s).tick = s.tick := rfl
@[simp] theorem decodeOk_host (s : State) :
    (decodeOk s).host = s.host := rfl
@[simp] theorem decodeOk_bufLen (s : State) :
    (decodeOk s).bufLen = s.bufLen := rfl
@[simp] theorem decodeOk_bufOvf (s : State) :
    (decodeOk s).bufOvf = s.bufOvf := rfl
@[simp] theorem decodeOk_buf (s : State) :
    (decodeOk s).buf = s.buf := rfl
@[simp] theorem decodeOk_agents (s : State) :
    (decodeOk s).agents = s.agents := rfl
@[simp] theorem decodeOk_level (s : State) :
    (decodeOk s).level = s.level := rfl
@[simp] theorem decodeOk_par (s : State) :
    (decodeOk s).par = s.par := rfl

/-! ## decodeFail -/

@[simp] theorem decodeFail_cw (c : DecodeFailure) (s : State) :
    (decodeFail c s).cw = s.cw := rfl
@[simp] theorem decodeFail_res (c : DecodeFailure) (s : State) :
    (decodeFail c s).res = failureResults (failureCode c) s.res := rfl
@[simp] theorem decodeFail_txBusy (c : DecodeFailure) (s : State) :
    (decodeFail c s).txBusy = s.txBusy := rfl
@[simp] theorem decodeFail_decBusy (c : DecodeFailure) (s : State) :
    (decodeFail c s).decBusy = false := rfl
@[simp] theorem decodeFail_dec (c : DecodeFailure) (s : State) :
    (decodeFail c s).dec = { s.dec with state := .idle } := rfl
@[simp] theorem decodeFail_tx (c : DecodeFailure) (s : State) :
    (decodeFail c s).tx = s.tx := rfl
@[simp] theorem decodeFail_irOut (c : DecodeFailure) (s : State) :
    (decodeFail c s).irOut = s.irOut := rfl
@[simp] theorem decodeFail_rsp (c : DecodeFailure) (s : State) :
    (decodeFail c s).rsp = some { status := .fail, rdata := 0 } := rfl
@[simp] theorem decodeFail_line (c : DecodeFailure) (s : State) :
    (decodeFail c s).line = s.line := rfl
@[simp] theorem decodeFail_rst (c : DecodeFailure) (s : State) :
    (decodeFail c s).rst = s.rst := rfl
@[simp] theorem decodeFail_tick (c : DecodeFailure) (s : State) :
    (decodeFail c s).tick = s.tick := rfl
@[simp] theorem decodeFail_host (c : DecodeFailure) (s : State) :
    (decodeFail c s).host = s.host := rfl
@[simp] theorem decodeFail_bufLen (c : DecodeFailure) (s : State) :
    (decodeFail c s).bufLen = s.bufLen := rfl
@[simp] theorem decodeFail_bufOvf (c : DecodeFailure) (s : State) :
    (decodeFail c s).bufOvf = s.bufOvf := rfl
@[simp] theorem decodeFail_buf (c : DecodeFailure) (s : State) :
    (decodeFail c s).buf = s.buf := rfl
@[simp] theorem decodeFail_agents (c : DecodeFailure) (s : State) :
    (decodeFail c s).agents = s.agents := rfl
@[simp] theorem decodeFail_level (c : DecodeFailure) (s : State) :
    (decodeFail c s).level = s.level := rfl
@[simp] theorem decodeFail_par (c : DecodeFailure) (s : State) :
    (decodeFail c s).par = s.par := rfl

/-! ## goTo -/

@[simp] theorem goTo_cw (st : DecState) (w : DecWork) (s : State) :
    (goTo st w s).cw = s.cw := rfl
@[simp] theorem goTo_res (st : DecState) (w : DecWork) (s : State) :
    (goTo st w s).res = s.res := rfl
@[simp] theorem goTo_txBusy (st : DecState) (w : DecWork) (s : State) :
    (goTo st w s).txBusy = s.txBusy := rfl
@[simp] theorem goTo_decBusy (st : DecState) (w : DecWork) (s : State) :
    (goTo st w s).decBusy = s.decBusy := rfl
@[simp] theorem goTo_dec (st : DecState) (w : DecWork) (s : State) :
    (goTo st w s).dec = { w with state := st } := rfl
@[simp] theorem goTo_tx (st : DecState) (w : DecWork) (s : State) :
    (goTo st w s).tx = s.tx := rfl
@[simp] theorem goTo_irOut (st : DecState) (w : DecWork) (s : State) :
    (goTo st w s).irOut = s.irOut := rfl
@[simp] theorem goTo_rsp (st : DecState) (w : DecWork) (s : State) :
    (goTo st w s).rsp = s.rsp := rfl
@[simp] theorem goTo_line (st : DecState) (w : DecWork) (s : State) :
    (goTo st w s).line = s.line := rfl
@[simp] theorem goTo_rst (st : DecState) (w : DecWork) (s : State) :
    (goTo st w s).rst = s.rst := rfl
@[simp] theorem goTo_tick (st : DecState) (w : DecWork) (s : State) :
    (goTo st w s).tick = s.tick := rfl
@[simp] theorem goTo_host (st : DecState) (w : DecWork) (s : State) :
    (goTo st w s).host = s.host := rfl
@[simp] theorem goTo_bufLen (st : DecState) (w : DecWork) (s : State) :
    (goTo st w s).bufLen = s.bufLen := rfl
@[simp] theorem goTo_bufOvf (st : DecState) (w : DecWork) (s : State) :
    (goTo st w s).bufOvf = s.bufOvf := rfl
@[simp] theorem goTo_buf (st : DecState) (w : DecWork) (s : State) :
    (goTo st w s).buf = s.buf := rfl
@[simp] theorem goTo_agents (st : DecState) (w : DecWork) (s : State) :
    (goTo st w s).agents = s.agents := rfl
@[simp] theorem goTo_level (st : DecState) (w : DecWork) (s : State) :
    (goTo st w s).level = s.level := rfl
@[simp] theorem goTo_par (st : DecState) (w : DecWork) (s : State) :
    (goTo st w s).par = s.par := rfl

/-! ## startDecode -/

@[simp] theorem startDecode_cw (s : State) :
    (startDecode s).cw = s.cw := rfl
@[simp] theorem startDecode_res (s : State) :
    (startDecode s).res = s.res := rfl
@[simp] theorem startDecode_txBusy (s : State) :
    (startDecode s).txBusy = s.txBusy := rfl
@[simp] theorem startDecode_decBusy (s : State) :
    (startDecode s).decBusy = true := rfl
@[simp] theorem startDecode_dec (s : State) :
    (startDecode s).dec = { s.dec with lenQ := s.bufLen, ovfQ := s.bufOvf, state := .check } := rfl
@[simp] theorem startDecode_tx (s : State) :
    (startDecode s).tx = s.tx := rfl
@[simp] theorem startDecode_irOut (s : State) :
    (startDecode s).irOut = s.irOut := rfl
@[simp] theorem startDecode_rsp (s : State) :
    (startDecode s).rsp = s.rsp := rfl
@[simp] theorem startDecode_line (s : State) :
    (startDecode s).line = s.line := rfl
@[simp] theorem startDecode_rst (s : State) :
    (startDecode s).rst = s.rst := rfl
@[simp] theorem startDecode_tick (s : State) :
    (startDecode s).tick = s.tick := rfl
@[simp] theorem startDecode_host (s : State) :
    (startDecode s).host = s.host := rfl
@[simp] theorem startDecode_bufLen (s : State) :
    (startDecode s).bufLen = s.bufLen := rfl
@[simp] theorem startDecode_bufOvf (s : State) :
    (startDecode s).bufOvf = s.bufOvf := rfl
@[simp] theorem startDecode_buf (s : State) :
    (startDecode s).buf = s.buf := rfl
@[simp] theorem startDecode_agents (s : State) :
    (startDecode s).agents = s.agents := rfl
@[simp] theorem startDecode_level (s : State) :
    (startDecode s).level = s.level := rfl
@[simp] theorem startDecode_par (s : State) :
    (startDecode s).par = s.par := rfl

/-! ## resetCodec -/

@[simp] theorem resetCodec_cw (s : State) :
    (resetCodec s).cw = 0x0000000F3C186929#64 := rfl
@[simp] theorem resetCodec_res (s : State) :
    (resetCodec s).res = State.reset.res := rfl
@[simp] theorem resetCodec_txBusy (s : State) :
    (resetCodec s).txBusy = false := rfl
@[simp] theorem resetCodec_decBusy (s : State) :
    (resetCodec s).decBusy = false := rfl
@[simp] theorem resetCodec_dec (s : State) :
    (resetCodec s).dec = State.reset.dec := rfl
@[simp] theorem resetCodec_tx (s : State) :
    (resetCodec s).tx = State.reset.tx := rfl
@[simp] theorem resetCodec_irOut (s : State) :
    (resetCodec s).irOut = false := rfl
@[simp] theorem resetCodec_rsp (s : State) :
    (resetCodec s).rsp = none := rfl
@[simp] theorem resetCodec_line (s : State) :
    (resetCodec s).line = s.line := rfl
@[simp] theorem resetCodec_rst (s : State) :
    (resetCodec s).rst = s.rst := rfl
@[simp] theorem resetCodec_tick (s : State) :
    (resetCodec s).tick = s.tick := rfl
@[simp] theorem resetCodec_host (s : State) :
    (resetCodec s).host = s.host := rfl
@[simp] theorem resetCodec_bufLen (s : State) :
    (resetCodec s).bufLen = s.bufLen := rfl
@[simp] theorem resetCodec_bufOvf (s : State) :
    (resetCodec s).bufOvf = s.bufOvf := rfl
@[simp] theorem resetCodec_buf (s : State) :
    (resetCodec s).buf = s.buf := rfl
@[simp] theorem resetCodec_agents (s : State) :
    (resetCodec s).agents = s.agents := rfl
@[simp] theorem resetCodec_level (s : State) :
    (resetCodec s).level = s.level := rfl
@[simp] theorem resetCodec_par (s : State) :
    (resetCodec s).par = s.par := rfl

end Sys2Proof.Machine
end

