-- ==== Sys2Proof/Laws/Ops.lean ====
section
/-! SUPPORT. What each shared operation can do, said once: MATCH and the classifications, the decoder
of operation words, the meanings, the two sequencers, the step. -/

namespace Sys2Proof.Machine

/-! ## MATCH and the classifications -/

theorem matchDur_eq_true {tol : Nat} {m : Nat} {n : Nat} : matchDur tol m n = true ↔
    n * (100 - tol) ≤ m * 100 ∧ m * 100 ≤ n * (100 + tol) := by
  simp [matchDur]

/-- The three outcomes of reading a data mark. -/
theorem classifyMark_cases (tol : Nat) (m : Nat) :
    (classifyMark tol m = some false ∧ matchDur tol m 720 = true) ∨
    (classifyMark tol m = some true ∧ matchDur tol m 720 = false ∧ matchDur tol m 2400 = true) ∨
    (classifyMark tol m = none ∧ matchDur tol m 720 = false ∧ matchDur tol m 2400 = false) := by
  unfold classifyMark Config.bit0Mark Config.bit1Mark
  cases h : matchDur tol m 720 <;> cases h' : matchDur tol m 2400 <;> simp

/-- The three outcomes of reading the space after a data mark. -/
theorem classifySpace_cases (tol : Nat) (d : Nat) :
    (classifySpace tol d = some true ∧ matchDur tol d 2700 = true) ∨
    (classifySpace tol d = some false ∧ matchDur tol d 2700 = false ∧ matchDur tol d 840 = true) ∨
    (classifySpace tol d = none ∧ matchDur tol d 2700 = false ∧ matchDur tol d 840 = false) := by
  unfold classifySpace Config.rptGap Config.bitSpace
  cases h : matchDur tol d 2700 <;> cases h' : matchDur tol d 840 <;> simp

/-! ## What an operation word decodes to, by its operation code -/

theorem decodeOp_cwrd {n : Nat} {w : OpWord} (h : opcOf w = 0) : decodeOp n w = .cwrd := by simp [decodeOp, h]
theorem decodeOp_cwwr {n : Nat} {w : OpWord} (h : opcOf w = 1) : decodeOp n w = .cwwr (dataOf w) := by
  simp [decodeOp, h]
theorem decodeOp_frd {n : Nat} {w : OpWord} (h : opcOf w = 2) : decodeOp n w = .frd (fieldSelector (selOf w)) := by
  simp [decodeOp, h]
theorem decodeOp_fwr {n : Nat} {w : OpWord} (h : opcOf w = 3) : decodeOp n w =
    .fwr (fieldSelector (selOf w)) (fwrValue (fieldSelector (selOf w)) (dataOf w)) := by
  simp [decodeOp, h]
theorem decodeOp_twr {n : Nat} {w : OpWord} (h : opcOf w = 4) : decodeOp n w =
    .twr ((dataOf w).extractLsb' 8 8) ((dataOf w).extractLsb' 0 8) := by simp [decodeOp, h]
theorem decodeOp_send {n : Nat} {w : OpWord} (h : opcOf w = 5) :
    decodeOp n w = .send ((dataOf w).toNat % repeatBound n) := by simp [decodeOp, h]
theorem decodeOp_decode {n : Nat} {w : OpWord} (h : opcOf w = 6) : decodeOp n w = .decode := by simp [decodeOp, h]
theorem decodeOp_rrd {n : Nat} {w : OpWord} (h : opcOf w = 7) :
    decodeOp n w = .rrd (resultSelector (selOf w)) := by simp [decodeOp, h]
theorem decodeOp_reserved {n : Nat} {w : OpWord} (h : 8 ≤ (opcOf w).toNat) :
    decodeOp n w = .reservedOpc (opcOf w) := by
  unfold decodeOp
  split <;> first | rfl | (exfalso; omega)

/-- What the decoder can give: one of the eight operations or a reserved code, by the code. -/
theorem decodeOp_cases (n : Nat) (w : OpWord) :
    (opcOf w = 0 ∧ decodeOp n w = .cwrd) ∨
    (opcOf w = 1 ∧ decodeOp n w = .cwwr (dataOf w)) ∨
    (opcOf w = 2 ∧ decodeOp n w = .frd (fieldSelector (selOf w))) ∨
    (opcOf w = 3 ∧ decodeOp n w =
      .fwr (fieldSelector (selOf w)) (fwrValue (fieldSelector (selOf w)) (dataOf w))) ∨
    (opcOf w = 4 ∧ decodeOp n w = .twr ((dataOf w).extractLsb' 8 8) ((dataOf w).extractLsb' 0 8)) ∨
    (opcOf w = 5 ∧ decodeOp n w = .send ((dataOf w).toNat % repeatBound n)) ∨
    (opcOf w = 6 ∧ decodeOp n w = .decode) ∨
    (opcOf w = 7 ∧ decodeOp n w = .rrd (resultSelector (selOf w))) ∨
    (8 ≤ (opcOf w).toNat ∧ decodeOp n w = .reservedOpc (opcOf w)) := by
  have key : opcOf w = 0 ∨ opcOf w = 1 ∨ opcOf w = 2 ∨ opcOf w = 3 ∨ opcOf w = 4 ∨ opcOf w = 5 ∨
      opcOf w = 6 ∨ opcOf w = 7 ∨ 8 ≤ (opcOf w).toNat := by
    generalize opcOf w = o
    revert o
    decide
  rcases key with h | h | h | h | h | h | h | h | h
  · exact .inl ⟨h, decodeOp_cwrd h⟩
  · exact .inr (.inl ⟨h, decodeOp_cwwr h⟩)
  · exact .inr (.inr (.inl ⟨h, decodeOp_frd h⟩))
  · exact .inr (.inr (.inr (.inl ⟨h, decodeOp_fwr h⟩)))
  · exact .inr (.inr (.inr (.inr (.inl ⟨h, decodeOp_twr h⟩))))
  · exact .inr (.inr (.inr (.inr (.inr (.inl ⟨h, decodeOp_send h⟩)))))
  · exact .inr (.inr (.inr (.inr (.inr (.inr (.inl ⟨h, decodeOp_decode h⟩))))))
  · exact .inr (.inr (.inr (.inr (.inr (.inr (.inr (.inl ⟨h, decodeOp_rrd h⟩)))))))
  · exact .inr (.inr (.inr (.inr (.inr (.inr (.inr (.inr ⟨h, decodeOp_reserved h⟩)))))))

/-- The field selector is the field of the code, or the reserved code itself. -/
theorem fieldSelector_cases (k : BitVec 4) :
    (∃ f, k = fieldCode f ∧ fieldSelector k = .named f) ∨
    (5 ≤ k.toNat ∧ fieldSelector k = .reserved k) := by
  have key : k = 0 ∨ k = 1 ∨ k = 2 ∨ k = 3 ∨ k = 4 ∨ (5 ≤ k.toNat ∧ fieldSelector k = .reserved k) := by
    revert k
    decide
  rcases key with rfl | rfl | rfl | rfl | rfl | h
  · exact .inl ⟨.tc, rfl, rfl⟩
  · exact .inl ⟨.tf, rfl, rfl⟩
  · exact .inl ⟨.pwr, rfl, rfl⟩
  · exact .inl ⟨.units, rfl, rfl⟩
  · exact .inl ⟨.flow, rfl, rfl⟩
  · exact .inr h

/-- The result selector is the register of the code, or the reserved code itself. -/
theorem resultSelector_cases (k : BitVec 4) :
    (∃ q, k = resultCode q ∧ resultSelector k = .named q) ∨
    (6 ≤ k.toNat ∧ resultSelector k = .reserved k) := by
  have key : k = 0 ∨ k = 1 ∨ k = 2 ∨ k = 3 ∨ k = 4 ∨ k = 5 ∨
      (6 ≤ k.toNat ∧ resultSelector k = .reserved k) := by
    revert k
    decide
  rcases key with rfl | rfl | rfl | rfl | rfl | rfl | h
  · exact .inl ⟨.value, rfl, rfl⟩
  · exact .inl ⟨.bits, rfl, rfl⟩
  · exact .inl ⟨.addr, rfl, rfl⟩
  · exact .inl ⟨.cmd, rfl, rfl⟩
  · exact .inl ⟨.ok, rfl, rfl⟩
  · exact .inl ⟨.fail, rfl, rfl⟩
  · exact .inr h

/-! ## The meanings, each as one next state -/

@[simp] theorem exec_cwrd (s : State) : exec .cwrd s = .next (respond .ok s.cw s) := rfl
@[simp] theorem exec_cwwr (v : Word64) (s : State) :
    exec (.cwwr v) s = .next (respond .ok 0 (setCw v s)) := rfl
@[simp] theorem exec_frd_named (f : FieldName) (s : State) :
    exec (.frd (.named f)) s = .next (respond .ok (readField f s.cw) s) := rfl
@[simp] theorem exec_frd_reserved (k : BitVec 4) (s : State) :
    exec (.frd (.reserved k)) s = .next (refuse 2 s) := rfl
@[simp] theorem exec_fwr_named (f : FieldName) (v : BitVec 8) (s : State) :
    exec (.fwr (.named f) v) s =
      .next (respond .ok 0 (setCw (writeField f (v.setWidth 64) s.cw) s)) := rfl
@[simp] theorem exec_fwr_reserved (k : BitVec 4) (v : BitVec 8) (s : State) :
    exec (.fwr (.reserved k) v) s = .next (refuse 2 s) := rfl
@[simp] theorem exec_twr (tf tc : BitVec 8) (s : State) :
    exec (.twr tf tc) s = .next (respond .ok 0 (setCw (writeTemperatures tf tc s.cw) s)) := rfl
@[simp] theorem exec_send (r : Nat) (s : State) : exec (.send r) s =
    .next (respond .ok 0
      { emit (sendTrace (payloadOf s.cw) r) s with txBusy := false, tx := idleTx }) := rfl
@[simp] theorem exec_decode (s : State) : exec .decode s =
    .next (finishDecode (decodeBuffer s.par.tolPct s.buf (sampleInputs s)).1
      { s with dec := (decodeBuffer s.par.tolPct s.buf (sampleInputs s)).2 }) := rfl
@[simp] theorem exec_rrd_named (q : ResultName) (s : State) :
    exec (.rrd (.named q)) s = .next (respond .ok (readResult s.par q s.res) s) := rfl
@[simp] theorem exec_rrd_reserved (k : BitVec 4) (s : State) :
    exec (.rrd (.reserved k)) s = .next (refuse 2 s) := rfl
@[simp] theorem exec_reservedOpc (k : BitVec 4) (s : State) :
    exec (.reservedOpc k) s = .next (refuse 1 s) := rfl
@[simp] theorem exec_pwron (s : State) :
    exec .pwron s = .next (respond .ok 0 (setCw (writeField .pwr 1 s.cw) s)) := rfl
@[simp] theorem exec_pwroff (s : State) :
    exec .pwroff s = .next (respond .ok 0 (setCw (writeField .pwr 0 s.cw) s)) := rfl
@[simp] theorem exec_unitc (s : State) :
    exec .unitc s = .next (respond .ok 0 (setCw (writeField .units 1 s.cw) s)) := rfl
@[simp] theorem exec_unitf (s : State) :
    exec .unitf s = .next (respond .ok 0 (setCw (writeField .units 0 s.cw) s)) := rfl
@[simp] theorem exec_accept (v : Word64) (s : State) :
    exec (.accept v) s = .next (respond .ok 0 (setCw v s)) := rfl
@[simp] theorem exec_hdr (s : State) : exec .hdr s = .next (emit hdrSymbol s) := rfl
@[simp] theorem exec_bit0 (s : State) : exec .bit0 s = .next (emit (bitSymbol false) s) := rfl
@[simp] theorem exec_bit1 (s : State) : exec .bit1 s = .next (emit (bitSymbol true) s) := rfl
@[simp] theorem exec_trail (s : State) : exec .trail s = .next (emit trailSymbol s) := rfl
@[simp] theorem exec_cw40 (c : CommandWord) (s : State) :
    exec (.cw40 c) s = .next (emit (dataSegments 40 (packCommand c)) s) := rfl

/-- A finished decode: a success writes the result of the accumulator, a failure its code. -/
theorem finishDecode_cases (e : DecodeEnd) (s : State) :
    (e = .success ∧ finishDecode e s = decodeOk s) ∨
    (∃ c, e = .failure c ∧ finishDecode e s = decodeFail c s) := by
  cases e with
  | success => exact .inl ⟨rfl, rfl⟩
  | failure c => exact .inr ⟨c, rfl, rfl⟩

/-! ## The line -/

@[simp] theorem emit_nil (s : State) : emit [] s = s := rfl

/-- Emitting one list after another is emitting both. -/
theorem emit_append (a b : List Segment) (s : State) : emit (a ++ b) s = emit b (emit a s) := by
  have h : ∀ (a : List Segment) (l : Bool), lastLevel l (a ++ b) = lastLevel (lastLevel l a) b := by
    intro a
    induction a with
    | nil => intro l; rfl
    | cons g rest ih => intro l; exact ih g.level
  simp [emit, h]

/-! ## The bit loop, one pass at a time -/

theorem decodeLoop_zero (tol : Nat) (buf : Memory) (w : DecWork) :
    decodeLoop tol buf 0 w = (.failure .budget, w) := rfl

theorem decodeLoop_spent {tol : Nat} {buf : Memory} {n : Nat} {w : DecWork}
    (h : budgetSpent w = true) : decodeLoop tol buf (n + 1) w = (.failure .budget, w) := by
  simp [decodeLoop, h]

theorem decodeLoop_noMark {tol : Nat} {buf : Memory} {n : Nat} {w : DecWork}
    (h : budgetSpent w = false) (h1 : pastEnd w w.offset = true) :
    decodeLoop tol buf (n + 1) w = (.failure .overrun, w) := by
  simp [decodeLoop, h, h1]

theorem decodeLoop_badMark {tol : Nat} {buf : Memory} {n : Nat} {w : DecWork}
    (h : budgetSpent w = false) (h1 : pastEnd w w.offset = false)
    (h2 : classifyMark tol (buf.read w.offset) = none) :
    decodeLoop tol buf (n + 1) w = (.failure .bitMark, shiftAcc w) := by
  simp [decodeLoop, h, h1, h2]

/-- A pass that ends the decode in success. -/
theorem decodeLoop_clean {tol : Nat} {buf : Memory} {n : Nat} {w : DecWork} {b : Bool}
    (h : budgetSpent w = false) (h1 : pastEnd w w.offset = false)
    (h2 : classifyMark tol (buf.read w.offset) = some b)
    (h3 : cleanEnd (pushBit b w) = true) :
    decodeLoop tol buf (n + 1) w = (.success, pushBit b w) := by
  simp [decodeLoop, h, h1, h2, h3]

/-- A pass over a bit and its inter-bit space. -/
theorem decodeLoop_interBit {tol : Nat} {buf : Memory} {n : Nat} {w : DecWork} {b : Bool}
    (h : budgetSpent w = false) (h1 : pastEnd w w.offset = false)
    (h2 : classifyMark tol (buf.read w.offset) = some b)
    (h3 : cleanEnd (pushBit b w) = false)
    (h4 : pastEnd (pushBit b w) (pushBit b w).offset = false)
    (h5 : classifySpace tol (buf.read (pushBit b w).offset) = some false) :
    decodeLoop tol buf (n + 1) w = decodeLoop tol buf n (advance 1 (pushBit b w)) := by
  simp [decodeLoop, h, h1, h2, h3, h4, h5]

/-- A pass over a bit and a repeat boundary with a good header behind it. -/
theorem decodeLoop_boundary {tol : Nat} {buf : Memory} {n : Nat} {w : DecWork} {b : Bool}
    (h : budgetSpent w = false) (h1 : pastEnd w w.offset = false)
    (h2 : classifyMark tol (buf.read w.offset) = some b)
    (h3 : cleanEnd (pushBit b w) = false)
    (h4 : pastEnd (pushBit b w) (pushBit b w).offset = false)
    (h5 : classifySpace tol (buf.read (pushBit b w).offset) = some true)
    (h6 : pastEnd (pushBit b w) ((pushBit b w).offset + 1) = false)
    (h7 : matchDur tol (buf.read ((pushBit b w).offset + 1)) 7000 = true)
    (h8 : pastEnd (pushBit b w) ((pushBit b w).offset + 2) = false)
    (h9 : matchDur tol (buf.read ((pushBit b w).offset + 2)) 4000 = true) :
    decodeLoop tol buf (n + 1) w = decodeLoop tol buf n (advance 3 (discardBits (pushBit b w))) := by
  have e1 : ∀ i, pastEnd (discardBits (pushBit b w)) i = pastEnd (pushBit b w) i := fun _ => rfl
  have e2 : (discardBits (pushBit b w)).offset = (pushBit b w).offset := rfl
  simp [decodeLoop, h, h1, h2, h3, h4, h5, e1, e2, h6, h7, h8, h9, Config.hdrMark, Config.hdrSpace]

/-! ## The step -/

@[simp] theorem agentsMove_nil {s : State} (h : s.agents = []) : agentsMove s = s := by
  simp [agentsMove, h]

/-- A step is the codec's step and then the agents' move. -/
theorem step_of_codecStep {s t : State} (h : codecStep s = .next t) :
    step s = .next (agentsMove t) := by
  simp [step, codecThenAgents, h]

theorem codecStep_rst {s : State} (h : s.rst = true) : codecStep s = .next (resetCodec s) := by
  simp [codecStep, h]

theorem codecStep_tx {s : State} (h : s.rst = false) (h1 : s.txBusy = true) :
    codecStep s = .next (stepSend s) := by
  simp [codecStep, h, h1]

theorem codecStep_dec {s : State} (h : s.rst = false) (h1 : s.txBusy = false)
    (h2 : s.decBusy = true) : codecStep s = .next (stepDecode s) := by
  simp [codecStep, h, h1, h2]

theorem codecStep_idle {s : State} (h : s.rst = false) (h1 : s.busy = false) (h2 : s.host = []) :
    codecStep s = .next (noResponse s) := by
  simp only [State.busy, Bool.or_eq_false_iff] at h1
  simp [codecStep, h, h1, h2]

theorem codecStep_accept {s : State} {w : OpWord} {rest : List OpWord} (h : s.rst = false)
    (h1 : s.busy = false) (h2 : s.host = w :: rest) :
    codecStep s = acceptOp (decodeOp s.par.rptW w) (noResponse { s with host := rest }) := by
  simp only [State.busy, Bool.or_eq_false_iff] at h1
  simp [codecStep, h, h1, h2]

theorem acceptOp_operation {s : State} (i : Instr) (h : s.level = .operation) :
    acceptOp i s = exec i s := by
  simp [acceptOp, h]

theorem acceptOp_send {s : State} (r : Nat) (h : s.level = .tick) :
    acceptOp (.send r) s = .next (startSend r s) := by
  simp [acceptOp, h]

theorem acceptOp_decode {s : State} (h : s.level = .tick) :
    acceptOp .decode s = .next (startDecode s) := by
  simp [acceptOp, h]

/-- At the tick level every other operation runs as at the operation level. -/
theorem acceptOp_other {s : State} (i : Instr) (h1 : ∀ r, i ≠ .send r) (h2 : i ≠ .decode) :
    acceptOp i s = exec i s := by
  unfold acceptOp
  cases s.level with
  | operation => rfl
  | tick => cases i <;> first | rfl | exact absurd rfl (h1 _) | exact absurd rfl h2

/-- The agents' moves reach inputs only. -/
theorem agentsMove_codec (s : State) : ∃ h r t l o b a, agentsMove s =
    { s with host := h, rst := r, tick := t, bufLen := l, bufOvf := o, buf := b, agents := a } := by
  unfold agentsMove
  split
  · exact ⟨_, _, _, _, _, _, _, rfl⟩
  · rename_i m rest _
    cases m <;> exact ⟨_, _, _, _, _, _, _, rfl⟩

end Sys2Proof.Machine
end

