-- ==== Sys2Proof/Laws/PerInstr.lean ====
section
/-! SUPPORT. Facts about the instructions as syntax, one lemma per constructor. -/

/-- A spelling and the instruction it stands for have the same encoding (30_encoding.md R91), and
taking the instruction a second time changes nothing, and keeps it well formed for every RPT_W (`n`). -/
def Sys2Proof.Laws.Canonical.Statement (i : Sys2Proof.Instr) : Prop :=
  Sys2Proof.encode (Sys2Proof.canonical i) = Sys2Proof.encode i ∧
  Sys2Proof.canonical (Sys2Proof.canonical i) = Sys2Proof.canonical i ∧
  (∀ n : Nat, i.wf n = true → (Sys2Proof.canonical i).wf n = true)

namespace Sys2Proof.Laws.Canonical

theorem cwrd : Statement .cwrd := ⟨rfl, rfl, fun _ => id⟩
theorem cwwr (v : Word64) : Statement (.cwwr v) := ⟨rfl, rfl, fun _ => id⟩
theorem frd (f : Selector FieldName) : Statement (.frd f) := ⟨rfl, rfl, fun _ => id⟩
theorem fwr (f : Selector FieldName) (v : BitVec 8) : Statement (.fwr f v) := ⟨rfl, rfl, fun _ => id⟩
theorem twr (tf tc : BitVec 8) : Statement (.twr tf tc) := ⟨rfl, rfl, fun _ => id⟩
theorem send (r : Nat) : Statement (.send r) := ⟨rfl, rfl, fun _ => id⟩
theorem decode : Statement .decode := ⟨rfl, rfl, fun _ => id⟩
theorem rrd (q : Selector ResultName) : Statement (.rrd q) := ⟨rfl, rfl, fun _ => id⟩
theorem reservedOpc (opc : BitVec 4) : Statement (.reservedOpc opc) := ⟨rfl, rfl, fun _ => id⟩
theorem pwron : Statement .pwron := ⟨rfl, rfl, fun _ _ => rfl⟩
theorem pwroff : Statement .pwroff := ⟨rfl, rfl, fun _ _ => rfl⟩
theorem unitc : Statement .unitc := ⟨rfl, rfl, fun _ _ => rfl⟩
theorem unitf : Statement .unitf := ⟨rfl, rfl, fun _ _ => rfl⟩
theorem accept (v : Word64) : Statement (.accept v) := ⟨rfl, rfl, fun _ => id⟩
theorem hdr : Statement .hdr := ⟨rfl, rfl, fun _ => id⟩
theorem bit0 : Statement .bit0 := ⟨rfl, rfl, fun _ => id⟩
theorem bit1 : Statement .bit1 := ⟨rfl, rfl, fun _ => id⟩
theorem trail : Statement .trail := ⟨rfl, rfl, fun _ => id⟩
theorem cw40 (w : CommandWord) : Statement (.cw40 w) := ⟨rfl, rfl, fun _ => id⟩

end Sys2Proof.Laws.Canonical
end

