-- ==== Sys2Proof/Laws/Sequencer.lean ====
section
/-! SUPPORT. What one step of each tick-level sequencer can do (41_encoder.md R135 to R141,
42_decoder.md R176). -/

namespace Sys2Proof.Machine

/-! ## The encoder -/

@[simp] theorem enterSegment_tx (st : TxState) (d : Nat) (s : State) :
    (enterSegment st d s).tx = { s.tx with state := st, timer := timerFor s.par.tickUs d } := rfl
@[simp] theorem enterSegment_irOut (st : TxState) (d : Nat) (s : State) :
    (enterSegment st d s).irOut = markState st := rfl
@[simp] theorem enterSegment_line (st : TxState) (d : Nat) (s : State) :
    (enterSegment st d s).line = ⟨markState st, 0⟩ :: s.line := rfl

theorem endSegment_hdrM {s : State} (h : s.tx.state = .hdrM) :
    endSegment s = enterSegment .hdrS 4000 s := by
  simp [endSegment, h, Config.hdrSpace]

theorem endSegment_hdrS {s : State} (h : s.tx.state = .hdrS) : endSegment s = startBit s := by
  simp [endSegment, h]

theorem endSegment_bitM {s : State} (h : s.tx.state = .bitM) : endSegment s =
    enterSegment .bitS 840 { s with tx := { s.tx with sr := s.tx.sr <<< 1, bits := s.tx.bits - 1 } } := by
  simp [endSegment, h, Config.bitSpace]

theorem endSegment_bitS_more {s : State} (h : s.tx.state = .bitS) (h1 : s.tx.bits ≠ 0) :
    endSegment s = startBit s := by
  have h1' : ¬ s.tx.bits = 0#6 := h1
  simp [endSegment, h, h1']

theorem endSegment_bitS_last {s : State} (h : s.tx.state = .bitS) (h1 : s.tx.bits = 0) :
    endSegment s = enterSegment .trail 1860 s := by
  simp [endSegment, h, h1, Config.trailSpace, Config.rptGap, Config.bitSpace]

theorem endSegment_trail_more {s : State} (h : s.tx.state = .trail) (h1 : s.tx.frames - 1 ≠ 0) :
    endSegment s = startFrame { s with tx := { s.tx with frames := s.tx.frames - 1 } } := by
  simp [endSegment, h, h1]

theorem endSegment_trail_last {s : State} (h : s.tx.state = .trail) (h1 : s.tx.frames - 1 = 0) :
    endSegment s = respond .ok 0
      { s with tx := { s.tx with frames := s.tx.frames - 1, state := .idle }, txBusy := false } := by
  simp [endSegment, h, h1]

/-- A tick inside a segment. -/
theorem countTick_inside {s : State} (h : s.tx.state ≠ .idle) (h1 : s.tx.timer ≠ 1) :
    countTick s = { s with line := lengthen s.par.tickUs s.line, tx := { s.tx with timer := s.tx.timer - 1 } } := by
  unfold countTick
  rw [if_neg h, if_neg h1]

/-- The tick that ends a segment. -/
theorem countTick_last {s : State} (h : s.tx.state ≠ .idle) (h1 : s.tx.timer = 1) :
    countTick s =
      endSegment { s with line := lengthen s.par.tickUs s.line, tx := { s.tx with timer := s.tx.timer - 1 } } := by
  unfold countTick
  rw [if_neg h, if_pos h1]

theorem stepSend_running {s : State} (h : s.tick = true) : stepSend s = countTick (noResponse s) := by
  simp [stepSend, h]

theorem stepSend_stopped {s : State} (h : s.tick = false) : stepSend s = noResponse s := by
  simp [stepSend, h]

/-- What no step of a SEND in progress reaches. -/
theorem stepSend_frame (s : State) :
    (stepSend s).cw = s.cw ∧ (stepSend s).res = s.res ∧ (stepSend s).dec = s.dec ∧
    (stepSend s).decBusy = s.decBusy ∧ (stepSend s).rst = s.rst ∧ (stepSend s).tick = s.tick ∧
    (stepSend s).host = s.host ∧ (stepSend s).bufLen = s.bufLen ∧ (stepSend s).bufOvf = s.bufOvf ∧
    (stepSend s).buf = s.buf ∧ (stepSend s).agents = s.agents ∧ (stepSend s).level = s.level ∧
    (stepSend s).par = s.par := by
  have he : ∀ u : State, (endSegment u).cw = u.cw ∧ (endSegment u).res = u.res ∧
      (endSegment u).dec = u.dec ∧ (endSegment u).decBusy = u.decBusy ∧ (endSegment u).rst = u.rst ∧
      (endSegment u).tick = u.tick ∧ (endSegment u).host = u.host ∧
      (endSegment u).bufLen = u.bufLen ∧ (endSegment u).bufOvf = u.bufOvf ∧
      (endSegment u).buf = u.buf ∧ (endSegment u).agents = u.agents ∧
      (endSegment u).level = u.level ∧ (endSegment u).par = u.par := by
    intro u
    unfold endSegment
    split
    · simp
    · simp [enterSegment]
    · simp [startBit, enterSegment]
    · simp [enterSegment]
    · split <;> simp [startBit, enterSegment]
    · split <;> simp [startFrame, enterSegment]
  unfold stepSend countTick
  split
  · split
    · simp
    · split
      · exact he _
      · simp
  · simp

/-! ## The decoder -/

/-- One step of a DECODE in progress writes only the result registers, DEC_BUSY, the working
registers and the response. -/
theorem stepDecode_frame (s : State) : ∃ r b d p, stepDecode s =
    { s with res := r, decBusy := b, dec := d, rsp := p } := by
  unfold stepDecode advanceDecode
  simp only
  split <;> (repeat' split) <;> exact ⟨_, _, _, _, rfl⟩

end Sys2Proof.Machine
end

