-- ==== Sys2Proof/Tests/Slice0.lean ====
section
/-! SUPPORT. Small tests. Expected values are the spec's: 95_test_vectors.md (V and S numbers), the
tables of 30_encoding.md and 60_exceptions.md, or hand calculation from the rule named. The last part
gives, for every statement with hypotheses, a state and operands that meet them. -/

namespace Sys2Proof.Tests

open Sys2Proof Sys2Proof.Machine

/-- The outcome is a next state with this property. -/
def after (o : Host.Outcome State Fault Refusal) (p : State → Bool) : Bool :=
  match o with
  | .next t => p t
  | .fault _ => false
  | .refused _ => false

/-- The reset state with another command word. -/
def withCw (v : Word64) : State := { State.reset with cw := v }

/-- The reset state with this capture handed over. -/
def withCapture (es : List Nat) (ovf : Bool) : State :=
  applyMove (.capture es ovf) State.reset

/-- CW and the response after an operation. -/
def gives (o : Host.Outcome State Fault Refusal) (cw : Word64) (st : Status) (rdata : Word64) : Bool :=
  after o (fun t => decide (t.cw = cw) && decide (t.rsp = some ⟨st, rdata⟩))

/-! ## WellFormed: an ill-formed term for each check, and its boundary -/

theorem test_wf_frd : (Instr.frd (.reserved 4)).wf 8 = false ∧ (Instr.frd (.reserved 5)).wf 8 = true := by decide
theorem test_wf_fwr_value :
    (Instr.fwr (.named .pwr) 2).wf 8 = false ∧ (Instr.fwr (.named .pwr) 1).wf 8 = true := by decide
theorem test_wf_fwr_selector : (Instr.fwr (.reserved 4) 0).wf 8 = false := by decide
theorem test_wf_fwr_reserved_value :
    (Instr.fwr (.reserved 5) 1).wf 8 = false ∧ (Instr.fwr (.reserved 5) 0).wf 8 = true := by decide
/-- RPT_W = 8: a repeat count is 0..255 (R86, R90). -/
theorem test_wf_send : (Instr.send 256).wf 8 = false ∧ (Instr.send 255).wf 8 = true := by decide
theorem test_wf_rrd : (Instr.rrd (.reserved 5)).wf 8 = false ∧ (Instr.rrd (.reserved 6)).wf 8 = true := by decide
theorem test_wf_reservedOpc :
    (Instr.reservedOpc 7).wf 8 = false ∧ (Instr.reservedOpc 8).wf 8 = true := by decide

/-! ## Decoding: words written out from 30_encoding.md R83 to R90 -/

theorem test_decode_cwrd : decodeTableWord 72 0x0FFFFFFFFFFFFFFFFF = some .cwrd := by decide
theorem test_decode_cwwr :
    decodeTableWord 72 0x10AB00000F3C106929 = some (.cwwr 0xAB00000F3C106929) := by decide
theorem test_decode_frd : decodeTableWord 72 0x240000000000000000 = some (.frd (.named .flow)) := by decide
theorem test_decode_frd_reserved :
    decodeTableWord 72 0x250000000000000000 = some (.frd (.reserved 5)) := by decide
theorem test_decode_fwr : decodeTableWord 72 0x310000000000000078 = some (.fwr (.named .tf) 120) := by decide
theorem test_decode_fwr_reserved :
    decodeTableWord 72 0x3F0000000000000001 = some (.fwr (.reserved 15) 0) := by decide
theorem test_decode_twr : decodeTableWord 72 0x400000000000007831 = some (.twr 0x78 0x31) := by decide
theorem test_decode_send : decodeTableWord 72 0x500000000000000FF1 = some (.send 0xF1) := by decide
/-- With RPT_W = 9 the repeat count is data[8:0] (00_scope.md R8). -/
theorem test_decode_send_rptW : decodeOp 9 0x500000000000000FF1 = .send 0x1F1 := by decide
theorem test_decode_decode : decodeTableWord 72 0x600000000000000000 = some .decode := by decide
theorem test_decode_rrd : decodeTableWord 72 0x750000000000000000 = some (.rrd (.named .fail)) := by decide
theorem test_decode_rrd_reserved :
    decodeTableWord 72 0x760000000000000000 = some (.rrd (.reserved 6)) := by decide
theorem test_decode_reservedOpc :
    decodeTableWord 72 0xFFFFFFFFFFFFFFFFFF = some (.reservedOpc 15) := by decide
/-- The words of PWRON, PWROFF, UNITC, UNITF and ACCEPT are words of FWR and CWWR (R91; log 8). -/
theorem test_decode_pwron : decodeTableWord 72 0x320000000000000001 = some (canonical .pwron) := by decide
theorem test_decode_pwroff : decodeTableWord 72 0x320000000000000000 = some (canonical .pwroff) := by decide
theorem test_decode_unitc : decodeTableWord 72 0x330000000000000001 = some (canonical .unitc) := by decide
theorem test_decode_unitf : decodeTableWord 72 0x330000000000000000 = some (canonical .unitf) := by decide
theorem test_decode_accept :
    decodeTableWord 72 0x100000000F3C387831 = some (canonical (.accept 0x0F3C387831)) := by decide
/-- The wire symbols by their durations (R73). -/
theorem test_decode_hdr :
    decodeSymbol [⟨true, 7000⟩, ⟨false, 4000⟩] = .ok .hdr := by rfl
theorem test_decode_bit0 : decodeSymbol [⟨true, 720⟩, ⟨false, 840⟩] = .ok .bit0 := by rfl
theorem test_decode_bit1 : decodeSymbol [⟨true, 2400⟩, ⟨false, 840⟩] = .ok .bit1 := by rfl
theorem test_decode_trail : decodeSymbol [⟨false, 1860⟩] = .ok .trail := by rfl
theorem test_decode_noSymbol : decodeSymbol [⟨true, 721⟩, ⟨false, 840⟩] = .error .noSymbol := by rfl
/-- CW40 of the default word by field (10_state.md R43). -/
theorem test_decode_cw40 : decodeTableWord 40 0x0F3C186929 =
    some (.cw40 ⟨0x03CF0, 0, 1, 1, 0, 0x69, 0x29⟩) := by decide
theorem test_decode_wrongLength : decodeBits 8 64 0 = .error (.wrongLength 64) := by rfl

/-! ## Command word operations: 95_test_vectors.md, part 2.2 -/

theorem test_cwrd_V2 :
    gives (exec .cwrd State.reset) 0x0F3C186929 .ok 0x0F3C186929 = true := by decide
theorem test_cwwr_V7 :
    gives (exec (.cwwr 0xAB00000F3C106929) State.reset) 0xAB00000F3C106929 .ok 0 = true := by decide
theorem test_frd_V3b : gives (exec (.frd (.named .tf)) State.reset) 0x0F3C186929 .ok 105 = true := by decide
theorem test_frd_V8b :
    gives (exec (.frd (.reserved 5)) State.reset) 0x0F3C186929 .refused 2 = true := by decide
theorem test_fwr_V5c :
    gives (exec (.fwr (.named .pwr) 0) (withCw 0xFFFFFFFFFFFFFFFF)) 0xFFFFFFFFFFF7FFFF .ok 0 = true := by
  decide
theorem test_fwr_V5 :
    gives (exec (decodeOp 8 0x3000000000000001FF) State.reset) 0x0F3C1869FF .ok 0 = true := by decide
theorem test_twr_V6c :
    gives (exec (.twr 0x12 0x34) (withCw 0xFFFFFFFFFFFFFFFF)) 0xFFFFFFFFFFFF1234 .ok 0 = true := by decide
theorem test_twr_V6b : gives (exec (.twr 0 255) State.reset) 0x0F3C1800FF .ok 0 = true := by decide
theorem test_rrd_V9 :
    gives (exec (.rrd (.named .bits)) State.reset) 0x0F3C186929 .ok 0 = true := by decide
theorem test_rrd_V8d :
    gives (exec (.rrd (.reserved 6)) State.reset) 0x0F3C186929 .refused 2 = true := by decide
theorem test_reservedOpc_V8e :
    gives (exec (decodeOp 8 0xFFFFFFFFFFFFFFFFFF) State.reset) 0x0F3C186929 .refused 1 = true := by decide
/-- Part 1, S4: PWRON leaves the default word, PWROFF clears bit 19 only; UNITF clears bit 20 only. -/
theorem test_pwron_S4 : gives (exec .pwron State.reset) 0x0F3C186929 .ok 0 = true := by decide
theorem test_pwroff_S4 : gives (exec .pwroff State.reset) 0x0F3C106929 .ok 0 = true := by decide
theorem test_unitc_S4 : gives (exec .unitc State.reset) 0x0F3C186929 .ok 0 = true := by decide
theorem test_unitf_S4 : gives (exec .unitf State.reset) 0x0F3C086929 .ok 0 = true := by decide
/-- Part 3, P3 step 6. -/
theorem test_accept_P3 :
    gives (exec (.accept 0x0F3C387831) State.reset) 0x0F3C387831 .ok 0 = true := by decide

/-! ## The encoder: part 1, S1, and part 2.3 -/

theorem test_hdr_R125 :
    after (exec .hdr State.reset) (fun t => decide (t.trace = [⟨true, 7000⟩, ⟨false, 4000⟩])) = true := by
  decide
theorem test_bit0_R126 :
    after (exec .bit0 State.reset) (fun t => decide (t.trace = [⟨true, 720⟩, ⟨false, 840⟩])) = true := by
  decide
theorem test_bit1_R126 :
    after (exec .bit1 State.reset) (fun t => decide (t.trace = [⟨true, 2400⟩, ⟨false, 840⟩])) = true := by
  decide
theorem test_trail_R127 :
    after (exec .trail State.reset) (fun t => decide (t.trace = [⟨false, 1860⟩])) = true := by decide
/-- V12 starts with 2400 and V13 ends with it: the order of the bits. -/
theorem test_cw40_order :
    after (exec (.cw40 (unpackCommand 0xAAAAAAAAAA)) State.reset)
      (fun t => decide (t.trace.take 4 = [⟨true, 2400⟩, ⟨false, 840⟩, ⟨true, 720⟩, ⟨false, 840⟩])) = true := by
  decide +kernel
/-- V14: segments 78 to 85 at the boundary of the two frames. -/
theorem test_send_V14 :
    after (exec (.send 1) State.reset) (fun t => decide ((t.trace.drop 78).take 8 =
      [⟨true, 720⟩, ⟨false, 840⟩, ⟨true, 2400⟩, ⟨false, 840⟩, ⟨false, 1860⟩, ⟨true, 7000⟩,
       ⟨false, 4000⟩, ⟨true, 720⟩])) = true := by decide +kernel
/-- V1: the entries of byte 0x69 and the closing space. -/
theorem test_send_V1_capture :
    ((captureOf 16 (sendTrace 0x0F3C186929 0)).drop 50).take 16 =
      [720, 840, 2400, 840, 2400, 840, 720, 840, 2400, 840, 720, 840, 720, 840, 2400, 840] ∧
    (captureOf 16 (sendTrace 0x0F3C186929 0)).drop 81 = [2700] := by decide +kernel

/-! ## The decoder: parts 2.4 and 2.5 -/

/-- V21: the last frame wins. -/
theorem test_decode_V21 :
    after (exec .decode (withCapture
        (captureOf 16 (sendTrace 0x0F3C106929 0) ++ captureOf 16 (sendTrace 0x0F3C186929 0)) false))
      (fun t => decide (t.rsp = some ⟨.ok, 0⟩) &&
        decide (t.res = ⟨true, 0x0F3C186929, 40, 0, 0, 0⟩)) = true := by decide +kernel
/-- V56: a 40-bit frame whose closing space is 840 and one entry more: BUDGET. -/
theorem test_decode_V56 :
    after (exec .decode (withCapture
        ((captureOf 16 (sendTrace 0x0F3C186929 0)).set 81 840 ++ [300]) false))
      (fun t => decide (t.rsp = some ⟨.fail, 0⟩) &&
        decide (t.res = ⟨false, 0, 0, 0, 0, 9⟩)) = true := by decide +kernel

/-! ## The step -/

/-- Part 3, P1 step 1: the word of PWROFF, as the first operation after reset. -/
theorem test_step_P1 :
    gives (step (State.reset.withFetchWord 72 0x320000000000000000)) 0x0F3C106929 .ok 0 = true := by decide
/-- A reserved code is refused by a step and its word is gone (R194). -/
theorem test_step_V8 :
    after (step (State.reset.withFetchWord 72 0x900000000000000000))
      (fun t => decide (t.rsp = some ⟨.refused, 1⟩) && t.host.isEmpty) = true := by decide

/-! ## States that meet the hypotheses of the statements -/

/-- A tick-level state with one operation word on the port. -/
def ticking (w : OpWord) : State := { State.reset with level := .tick, host := [w] }

/-- A SEND in progress in this state of the encoder. -/
def sending (st : TxState) (timer : BitVec 13) (bits : BitVec 6) (frames : Nat) : State :=
  { State.reset with
    txBusy := true, tx := { state := st, timer := timer, sr := 0x8000000000, bits := bits, frames := frames } }

/-- A DECODE in progress with these working registers over this capture. -/
def decodingAt (w : DecWork) (es : List Nat) : State :=
  { withCapture es false with decBusy := true, dec := w }

/-- The working registers of a DECODE of 82 entries. -/
def workAt (st : DecState) (offset : Nat) (nbits : BitVec 7) : DecWork :=
  { state := st, offset := offset, acc := 0, nbits := nbits, maxBits := 40, lenQ := 82, ovfQ := false }

/-- One frame of payload 0. -/
def oneFrame : List Nat := captureOf 16 (sendTrace 0 0)

theorem frameAt_oneFrame (rest : List Nat) (b : Memory) (_h : b = Memory.ofEntries 0 (oneFrame ++ rest))
    (hr : ∀ i, i < 82 → b.read i = (Memory.ofEntries 0 oneFrame).read i) : FrameAt 25 b 0 0 := by
  have e0 : FrameAt 25 (Memory.ofEntries 0 oneFrame) 0 0 :=
    ⟨by decide +kernel, by decide +kernel, by decide +kernel, by decide +kernel⟩
  refine ⟨?_, ?_, ?_, ?_⟩
  · rw [hr _ (by omega)]; exact e0.hdrMark
  · rw [hr _ (by omega)]; exact e0.hdrSpace
  · intro k hk; rw [hr _ (by omega)]; exact e0.marks k hk
  · intro k hk; rw [hr _ (by omega)]; exact e0.spaces k hk

theorem wit_reset_asserted : ({ State.reset with rst := true, txBusy := true } : State).rst = true := rfl
theorem wit_opcodes :
    (0x0FFFFFFFFFFFFFFFFF#72).extractLsb' 68 4 = 0 ∧ (0x100000000000000000#72).extractLsb' 68 4 = 1 ∧
    (0x2F0000000000000000#72).extractLsb' 68 4 = 2 ∧ (0x400000000000000000#72).extractLsb' 68 4 = 4 ∧
    (0x500000000000000000#72).extractLsb' 68 4 = 5 ∧ (0x600000000000000000#72).extractLsb' 68 4 = 6 ∧
    (0x760000000000000000#72).extractLsb' 68 4 = 7 := by decide
theorem wit_fwr_word :
    (0x340000000000000001#72).extractLsb' 68 4 = 3 ∧
    (0x340000000000000001#72).extractLsb' 64 4 = fieldCode .flow ∧
    (0x350000000000000001#72).extractLsb' 68 4 = 3 ∧
    5 ≤ ((0x350000000000000001#72).extractLsb' 64 4).toNat := by decide
theorem wit_other_field : FieldName.tc ≠ FieldName.flow := by decide
theorem wit_illegal_opc : illegalWord 0x800000000000000000#72 := .inl (by decide)
theorem wit_illegal_field : illegalWord 0x250000000000000000#72 := .inr (.inl (by decide))
theorem wit_illegal_result : illegalWord 0x760000000000000000#72 := .inr (.inr (by decide))
theorem wit_legal_word : ¬ illegalWord 0x750000000000000000#72 := by
  unfold illegalWord; decide
theorem wit_same_used_bits :
    0x0FFFFFFFFFFFFFFFFF#72 &&& usedBits 8 0x0FFFFFFFFFFFFFFFFF#72 =
      0x000000000000000000#72 &&& usedBits 8 0x000000000000000000#72 := by decide
theorem wit_well_formed : (Instr.fwr (.named .flow) 1).wf 8 = true ∧ (Instr.rrd (.reserved 6)).wf 8 = true := by
  decide
theorem wit_assemble :
    assemble 8 (.send 255) = some (.send 255) ∧ 2 ^ 64 - 1 < 2 ^ 64 ∧ 2 ^ 64 ≤ 2 ^ 64 ∧
    1 < FieldName.pwr.operandBound ∧ FieldName.pwr.operandBound ≤ 2 ∧ 255 < 256 := by decide
theorem wit_tolerance : (0 : Nat) ≤ 50 ∧ (50 : Nat) ≤ 50 ∧ State.reset.par.tolPct ≤ 50 ∧
    State.reset.par.ok = true ∧ State.reset.par.rptW = 8 := by decide
theorem wit_overflow : (withCapture [] true).bufOvf = true := rfl
theorem wit_short : (withCapture (oneFrame.dropLast) false).bufOvf = false ∧
    (withCapture (oneFrame.dropLast) false).bufLen = 81 := by decide +kernel
theorem wit_long_enough : (withCapture oneFrame false).bufOvf = false ∧
    (withCapture oneFrame false).bufLen = 82 := by decide +kernel
theorem wit_bad_hdrMark :
    matchDur 25 ((withCapture (oneFrame.set 0 5249) false).buf.read 0) 7000 = false ∧
    82 ≤ (withCapture (oneFrame.set 0 5249) false).bufLen := by decide +kernel
theorem wit_bad_hdrSpace :
    matchDur 25 ((withCapture (oneFrame.set 1 5001) false).buf.read 0) 7000 = true ∧
    matchDur 25 ((withCapture (oneFrame.set 1 5001) false).buf.read 1) 4000 = false ∧
    82 ≤ (withCapture (oneFrame.set 1 5001) false).bufLen := by decide +kernel
theorem wit_agree_below : agreeBelow 1 [(0, 7)] [(0, 7), (1, 9)] := by
  intro i hi
  have : i = 0 := by omega
  subst this
  decide
/-- LastFrameWins for one frame with its closing space, n = 0. -/
theorem wit_one_frame :
    FrameAt 25 (withCapture oneFrame false).buf 0 0 ∧
    (withCapture oneFrame false).bufLen = 82 * (0 + 1) ∧
    (∀ f, f < 0 → matchDur 25 ((withCapture oneFrame false).buf.read (82 * f + 81)) 2700 = true) :=
  ⟨frameAt_oneFrame [] _ (by decide +kernel) (by decide +kernel), by decide +kernel,
    fun _ h => absurd h (Nat.not_lt_zero _)⟩
/-- LastFrameWins for two frames without the last closing space, n = 1. -/
theorem wit_two_frames :
    (∀ f, f ≤ 1 → FrameAt 25 (withCapture (oneFrame ++ oneFrame.dropLast) false).buf (82 * f) 0) ∧
    (withCapture (oneFrame ++ oneFrame.dropLast) false).bufLen = 82 * (1 + 1) - 1 ∧
    (∀ f, f < 1 →
      matchDur 25 ((withCapture (oneFrame ++ oneFrame.dropLast) false).buf.read (82 * f + 81)) 2700
        = true) := by
  refine ⟨?_, by decide +kernel, by decide +kernel⟩
  intro f hf
  have : f = 0 ∨ f = 1 := by omega
  rcases this with rfl | rfl
  · exact ⟨by decide +kernel, by decide +kernel, by decide +kernel, by decide +kernel⟩
  · exact ⟨by decide +kernel, by decide +kernel, by decide +kernel, by decide +kernel⟩
/-- TrailingEntriesFailTheDecode: a boundary and no header mark. -/
theorem wit_trailing_boundary :
    FrameAt 25 (withCapture (oneFrame ++ [300]) false).buf 0 0 ∧
    (withCapture (oneFrame ++ [300]) false).bufLen = 83 ∧
    matchDur 25 ((withCapture (oneFrame ++ [300]) false).buf.read 81) 2700 = true ∧
    matchDur 25 ((withCapture (oneFrame ++ [300]) false).buf.read 82) 7000 = false :=
  ⟨frameAt_oneFrame [300] _ (by decide +kernel) (by decide +kernel), by decide +kernel,
    by decide +kernel, by decide +kernel⟩
/-- TrailingEntriesFailTheDecode: a closing space that is neither, and one of 840. -/
theorem wit_trailing_spaces :
    FrameAt 25 (withCapture (oneFrame.set 81 1860 ++ [300]) false).buf 0 0 ∧
    matchDur 25 ((withCapture (oneFrame.set 81 1860 ++ [300]) false).buf.read 81) 2700 = false ∧
    matchDur 25 ((withCapture (oneFrame.set 81 1860 ++ [300]) false).buf.read 81) 840 = false ∧
    FrameAt 25 (withCapture (oneFrame.set 81 840 ++ [300]) false).buf 0 0 ∧
    matchDur 25 ((withCapture (oneFrame.set 81 840 ++ [300]) false).buf.read 81) 840 = true ∧
    (withCapture (oneFrame.set 81 840 ++ [300]) false).bufLen = 83 :=
  ⟨⟨by decide +kernel, by decide +kernel, by decide +kernel, by decide +kernel⟩, by decide +kernel,
    by decide +kernel, ⟨by decide +kernel, by decide +kernel, by decide +kernel, by decide +kernel⟩,
    by decide +kernel, by decide +kernel⟩
/-- DecodeHandoffClearsTheUntransmittedBits: a DECODE that answers OK. -/
theorem wit_handoff :
    after (exec .decode (withCapture oneFrame false)) (fun t => decide (t.rsp = some ⟨.ok, 0⟩)) = true := by
  decide +kernel
theorem wit_not_decode : Instr.cwrd ≠ Instr.decode := by decide
theorem wit_accepting :
    ({ State.reset with host := [0] } : State).rst = false ∧
    ({ State.reset with host := [0] } : State).busy = false ∧
    ({ State.reset with host := [0] } : State).level = .operation := by decide
theorem wit_word_below : (0x900000000000000000 : Nat) < 2 ^ 72 := by decide
theorem wit_busy : (sending .hdrM 7000 40 1).rst = false ∧ (sending .hdrM 7000 40 1).busy = true ∧
    (sending .hdrM 7000 40 1).agents = [] ∧ (sending .hdrM 7000 40 1).txBusy = true := by decide
theorem wit_busy_decoding : (decodingAt (workAt .hdrM 0 0) []).busy = true ∧
    (decodingAt (workAt .hdrM 0 0) []).txBusy = false ∧
    (decodingAt (workAt .hdrM 0 0) []).rst = false := by decide
theorem wit_idle : State.reset.rst = false ∧ State.reset.busy = false ∧ State.reset.host = [] := by decide
theorem wit_responses :
    ({ State.reset with rsp := some ⟨.ok, 5⟩ } : State).rsp = some ⟨.ok, 5⟩ ∧
    ({ State.reset with rsp := some ⟨.fail, 0⟩ } : State).rsp = some ⟨.fail, 0⟩ ∧
    ({ State.reset with rsp := some ⟨.refused, 2⟩ } : State).rsp = some ⟨.refused, 2⟩ ∧
    State.reset.rsp = none := by decide
/-- The tick-level SEND: acceptance, agreement with the operation level. -/
theorem wit_tick_send : (ticking 0x500000000000000000).rst = false ∧
    (ticking 0x500000000000000000).busy = false ∧ (ticking 0x500000000000000000).level = .tick ∧
    (ticking 0x500000000000000000).tick = true ∧ (ticking 0x500000000000000000).agents = [] ∧
    decodeOp 8 0x500000000000000000 = .send 0 := by decide
/-- The tick-level DECODE. -/
theorem wit_tick_decode : (ticking 0x600000000000000000).rst = false ∧
    (ticking 0x600000000000000000).busy = false ∧ (ticking 0x600000000000000000).level = .tick ∧
    (ticking 0x600000000000000000).agents = [] ∧ decodeOp 8 0x600000000000000000 = .decode := by decide
/-- The encoder's sequencer: one state for each transition. -/
theorem wit_sequencer :
    (sending .hdrM 2 40 1).tx.timer ≠ 1 ∧ (sending .hdrM 2 40 1).tx.state ≠ .idle ∧
    (sending .hdrM 2 40 1).tick = true ∧
    (sending .hdrM 1 40 1).tx.state = .hdrM ∧ (sending .hdrS 1 40 1).tx.state = .hdrS ∧
    (sending .bitM 1 1 1).tx.state = .bitM ∧ (sending .bitS 1 39 1).tx.bits ≠ 0 ∧
    (sending .bitS 1 0 1).tx.bits = 0 ∧ (sending .trail 1 0 2).tx.frames - 1 ≠ 0 ∧
    (sending .trail 1 0 1).tx.frames - 1 = 0 := by decide
/-- With TICK_US = 20 a tick of a mark of 720 is 20 microseconds of it, and 36 ticks are all of it
(00_scope.md R8, R15). -/
theorem test_tick_us :
    after (step { sending .bitM 36 40 1 with
        par := { Config.defaultParams with tickUs := 20 }, line := [⟨true, 0⟩], irOut := true })
      (fun t => decide (t.line = [⟨true, 20⟩]) && decide (t.tx.timer = 35)) = true ∧
    timerFor 20 720 = 36 := by decide
theorem wit_stopped : ({ sending .hdrM 7 40 1 with tick := false } : State).tick = false ∧
    ({ sending .hdrM 7 40 1 with tick := false } : State).txBusy = true ∧
    ({ sending .hdrM 7 40 1 with tick := false } : State).rst = false := by decide
/-- The decoder's sequencer: CHECK with each of its three outcomes. -/
theorem wit_check :
    decoding (decodingAt { workAt .check 0 0 with ovfQ := true } []) .check ∧
    decoding (decodingAt { workAt .check 0 0 with lenQ := 81 } []) .check ∧
    decoding (decodingAt (workAt .check 0 0) []) .check :=
  ⟨⟨rfl, rfl, rfl, rfl, rfl⟩, ⟨rfl, rfl, rfl, rfl, rfl⟩, ⟨rfl, rfl, rfl, rfl, rfl⟩⟩
/-- HDR_M and HDR_S with a good and a bad entry. -/
theorem wit_header_states :
    decoding (decodingAt (workAt .hdrM 0 0) oneFrame) .hdrM ∧
    decoding (decodingAt (workAt .hdrS 1 0) oneFrame) .hdrS ∧
    matchDur 25 ((decodingAt (workAt .hdrM 0 0) oneFrame).buf.read 0) 7000 = true ∧
    matchDur 25 ((decodingAt (workAt .hdrM 0 0) []).buf.read 0) 7000 = false ∧
    matchDur 25 ((decodingAt (workAt .hdrS 1 0) oneFrame).buf.read 1) 4000 = true ∧
    matchDur 25 ((decodingAt (workAt .hdrS 1 0) []).buf.read 1) 4000 = false :=
  ⟨⟨rfl, rfl, rfl, rfl, rfl⟩, ⟨rfl, rfl, rfl, rfl, rfl⟩, by decide +kernel, by decide +kernel,
    by decide +kernel, by decide +kernel⟩
/-- BIT_M: budget spent; past the end; a mark at each window's edge and outside both. -/
theorem wit_bitM :
    decoding (decodingAt (workAt .bitM 2 40) oneFrame) .bitM ∧
    decoding (decodingAt (workAt .bitM 82 39) oneFrame) .bitM ∧
    (workAt .bitM 2 40).maxBits.toNat ≤ (workAt .bitM 2 40).nbits.toNat ∧
    (workAt .bitM 82 39).nbits.toNat < (workAt .bitM 82 39).maxBits.toNat ∧
    (workAt .bitM 82 39).lenQ ≤ (workAt .bitM 82 39).offset ∧
    (workAt .bitM 81 39).offset < (workAt .bitM 81 39).lenQ ∧
    matchDur 25 540 720 = true ∧ matchDur 25 539 720 = false ∧ matchDur 25 1800 720 = false ∧
    matchDur 25 1800 2400 = true ∧ matchDur 25 1799 2400 = false :=
  ⟨⟨rfl, rfl, rfl, rfl, rfl⟩, ⟨rfl, rfl, rfl, rfl, rfl⟩, by decide, by decide, by decide, by decide,
    by decide, by decide, by decide, by decide, by decide⟩
/-- AFTER_M: the clean end with and without the closing space; past the end; the three spaces. -/
theorem wit_afterM :
    decoding (decodingAt (workAt .afterM 81 40) oneFrame) .afterM ∧
    decoding (decodingAt (workAt .afterM 82 39) oneFrame) .afterM ∧
    (workAt .afterM 81 40).lenQ ≤ (workAt .afterM 81 40).offset + 1 ∧
    ¬((workAt .afterM 82 39).nbits = 40 ∧
      (workAt .afterM 82 39).lenQ ≤ (workAt .afterM 82 39).offset + 1) ∧
    (workAt .afterM 82 39).lenQ ≤ (workAt .afterM 82 39).offset ∧
    (workAt .afterM 81 39).offset < (workAt .afterM 81 39).lenQ ∧
    matchDur 25 2025 2700 = true ∧ matchDur 25 2024 2700 = false ∧ matchDur 25 1050 2700 = false ∧
    matchDur 25 1050 840 = true ∧ matchDur 25 2024 840 = false :=
  ⟨⟨rfl, rfl, rfl, rfl, rfl⟩, ⟨rfl, rfl, rfl, rfl, rfl⟩, by decide, by decide, by decide, by decide,
    by decide, by decide, by decide, by decide, by decide⟩
/-- RSY_M and RSY_S: the entry missing, wrong, and good. -/
theorem wit_resync :
    decoding (decodingAt (workAt .rsyM 81 0) oneFrame) .rsyM ∧
    decoding (decodingAt (workAt .rsyS 80 0) oneFrame) .rsyS ∧
    (workAt .rsyM 81 0).lenQ ≤ (workAt .rsyM 81 0).offset + 1 ∧
    (workAt .rsyM 80 0).offset + 1 < (workAt .rsyM 80 0).lenQ ∧
    (workAt .rsyS 80 0).lenQ ≤ (workAt .rsyS 80 0).offset + 2 ∧
    (workAt .rsyS 79 0).offset + 2 < (workAt .rsyS 79 0).lenQ ∧
    matchDur 25 8750 7000 = true ∧ matchDur 25 8751 7000 = false ∧
    matchDur 25 5000 4000 = true ∧ matchDur 25 5001 4000 = false :=
  ⟨⟨rfl, rfl, rfl, rfl, rfl⟩, ⟨rfl, rfl, rfl, rfl, rfl⟩, by decide, by decide, by decide, by decide,
    by decide, by decide, by decide, by decide⟩
theorem wit_buffer : Memory.wf Config.defaultParams [(3, 7000), (65535, 1)] = true := by decide +kernel
/-- The spec's widths admit the capture of every SEND, and so do others (a coarser tick, 9-bit R). -/
theorem wit_widths :
    13 ≤ State.reset.par.durW ∧ 82 * (255 + 1) < 2 ^ State.reset.par.lenW ∧
    Params.ok { Config.defaultParams with tickUs := 20, rptW := 9, lenW := 17 } = true ∧
    Params.ok { Config.defaultParams with tickUs := 7 } = false := by decide
theorem wit_capture_entry : ([7000, 0, 5] : List Nat)[1]? = some 0 := rfl

/-- A sane state with a word on the port (EveryStepKeepsTheInvariant, RrdAnswersTheResultRegister). -/
theorem wit_sane_accepting : Inv { State.reset with host := [0x700000000000000000#72] } :=
  { params := by decide
    buffer := rfl
    bufLen := by decide
    results :=
      { value := by decide, bits := .inl rfl, addr := rfl, cmd := rfl, failCode := by decide
        success := by decide }
    exclusive := by decide
    txBusy := by decide
    decBusy := by decide
    line := rfl
    encoder := { timer := by decide, frames := by decide, width := by decide, bits := trivial }
    decoder := trivial
    lenQ := by decide
    offset := by decide }

/-- A sane state in the middle of a DECODE, past the header (DecodeInProgressReadsNothingPastItsLength). -/
theorem wit_sane_decoding : Inv (decodingAt (workAt .bitM 2 0) oneFrame) :=
  { params := by decide
    buffer := by decide +kernel
    bufLen := by decide +kernel
    results :=
      { value := by decide, bits := .inl rfl, addr := rfl, cmd := rfl, failCode := by decide
        success := by decide }
    exclusive := by decide
    txBusy := by decide
    decBusy := by decide
    line := rfl
    encoder := { timer := by decide, frames := by decide, width := by decide, bits := trivial }
    decoder :=
      ⟨{ long := by decide, budget := by decide, within := by decide, inBuffer := by decide
         gathered := by decide }, by decide⟩
    lenQ := by decide
    offset := by decide }

/-- A step from that state. -/
theorem wit_step :
    after (step { State.reset with host := [0x700000000000000000#72] }) (fun t => decide (t.host = [])) = true := by
  decide

end Sys2Proof.Tests
end

section
/-! The statements of the scope (00_scope.md): MATCH, the buffer, what an instruction can reach, the
step of an idle port, one tick of a SEND, and the parameters. -/

namespace Sys2Proof.Machine

/-! ## MATCH (00_scope.md R9, R12) -/

/-- The window of a nominal at TOL_PCT = 25. -/
theorem matchDur_quarter {m n : Nat} :
    matchDur 25 m n = true ↔ n * 75 ≤ m * 100 ∧ m * 100 ≤ n * 125 :=
  matchDur_eq_true

theorem matchDur_self (tol n : Nat) : matchDur tol n n = true :=
  matchDur_eq_true.mpr
    ⟨Nat.mul_le_mul_left n (by omega), Nat.mul_le_mul_left n (by omega)⟩

/-- Two nominals more than a factor of three apart have disjoint windows up to 50 percent: the upper
edge of one is at most 3/2 of it, the lower edge of the other at least half of that. -/
theorem matchDur_disjoint {tol m a b : Nat} (ht : tol ≤ 50) (hab : 3 * a < b) :
    ¬(matchDur tol m a = true ∧ matchDur tol m b = true) := by
  rintro ⟨ha, hb⟩
  have hupper : m * 100 ≤ a * 150 :=
    (matchDur_eq_true.mp ha).2.trans (Nat.mul_le_mul_left a (by omega))
  have hlower : b * 50 ≤ m * 100 :=
    (Nat.mul_le_mul_left b (by omega)).trans (matchDur_eq_true.mp hb).1
  omega

/-! ## The buffer (00_scope.md R13, 20_memory.md R50) -/

@[simp] theorem Memory.read_nil (i : Nat) : Memory.read [] i = unlistedEntry := rfl

@[simp] theorem Memory.read_cons (k d : Nat) (rest : Memory) (i : Nat) :
    Memory.read ((k, d) :: rest) i = if k = i then d else Memory.read rest i := rfl

/-- The form of the buffer behind its first cell. -/
theorem Memory.wfFrom_tail {p : Params} {lo k d : Nat} {rest : Memory}
    (h : Memory.wfFrom p lo ((k, d) :: rest) = true) : rest.wfFrom p (k + 1) = true := by
  simp only [Memory.wfFrom, Bool.and_eq_true] at h
  exact h.2

/-- Read after write, in a buffer whose indices rise from any `lo`. -/
theorem Memory.read_write {p : Params} {i d : Nat} (m : Memory) : ∀ {lo : Nat} (j : Nat),
    m.wfFrom p lo = true → (m.write i d).read j = if j = i then d else m.read j := by
  induction m with
  | nil =>
    intro lo j _
    by_cases hd : d = unlistedEntry <;> simp [Memory.write, hd, eq_comm]
  | cons c rest ih =>
    obtain ⟨k, e⟩ := c
    intro lo j hm
    have hrest := Memory.wfFrom_tail hm
    have hbelow : i ≤ k → Memory.read rest i = unlistedEntry :=
      fun h => Memory.read_below (Nat.lt_succ_of_le h) hrest
    rcases lt_trichotomy i k with hik | rfl | hki
    · -- before the first cell: entered, or left out as what an unlisted index reads as
      have hi : Memory.read ((k, e) :: rest) i = unlistedEntry := by
        rw [Memory.read_cons, if_neg (by omega), hbelow (by omega)]
      by_cases hd : d = unlistedEntry
      · rw [Memory.write, if_pos hik, if_pos hd, hd]
        split
        · next hj => rw [hj, hi]
        · rfl
      · rw [Memory.write, if_pos hik, if_neg hd, Memory.read_cons i d]
        simp only [eq_comm]
    · -- at the first cell: replaced, or taken out
      by_cases hj : j = i
      · by_cases hd : d = unlistedEntry <;> simp [Memory.write, hd, hj, hbelow]
      · by_cases hd : d = unlistedEntry <;> simp [Memory.write, hd, hj, Ne.symm hj]
    · -- behind the first cell, which stays
      rw [Memory.write, if_neg (by omega), if_neg (by omega), Memory.read_cons, Memory.read_cons,
        ih j hrest]
      by_cases hk : k = j
      · rw [if_pos hk, if_neg (by omega), if_pos hk]
      · rw [if_neg hk, if_neg hk]

/-! ## What an instruction can do -/

/-- The instructions that may write CW (10_state.md R20): CWWR, FWR, TWR and the pseudo-operations. -/
def WritesCw (i : Instr) : Prop :=
  (∃ v, i = .cwwr v ∨ i = .accept v) ∨ (∃ f v, i = .fwr f v) ∨
    (∃ a b, i = .twr a b) ∨ i = .pwron ∨ i = .pwroff ∨ i = .unitc ∨ i = .unitf

/-- The rows of the table that are emitted and are no operation word (30_encoding.md R70, R73). -/
def OnWire (i : Instr) : Prop :=
  i = .hdr ∨ i = .bit0 ∨ i = .bit1 ∨ i = .trail ∨ ∃ c, i = .cw40 c

/-- DECODE writes the result registers, DEC_BUSY, the working registers and the response. -/
theorem exec_decode_frame (s : State) : ∃ r d p, exec .decode s =
    .next { s with res := r, decBusy := false, dec := d, rsp := some p } := by
  rw [exec_decode]
  obtain ⟨-, h⟩ | ⟨c, -, h⟩ := finishDecode_cases
      (decodeBuffer s.par.tolPct s.buf (sampleInputs s)).1
      { s with dec := (decodeBuffer s.par.tolPct s.buf (sampleInputs s)).2 } <;>
    exact ⟨_, _, _, congrArg _ h⟩

/-- Every instruction answers a next state, in one of five ways: a response alone, CW and a response,
segments on the line and no response, a SEND, a DECODE. -/
theorem exec_cases (i : Instr) (s : State) :
    (∃ p, exec i s = .next { s with rsp := some p }) ∨
    (WritesCw i ∧ ∃ c p, exec i s = .next { s with cw := c, rsp := some p }) ∨
    (OnWire i ∧ ∃ g, exec i s = .next (emit g s)) ∨
    (∃ r, i = .send r ∧ exec i s = .next (respond .ok 0
      { emit (sendTrace (payloadOf s.cw) r) s with txBusy := false, tx := idleTx })) ∨
    (i = .decode ∧ ∃ r d p, exec i s =
      .next { s with res := r, decBusy := false, dec := d, rsp := some p }) := by
  cases i with
  | cwrd => exact .inl ⟨_, rfl⟩
  | cwwr v => exact .inr (.inl ⟨by simp [WritesCw], _, _, rfl⟩)
  | frd f => cases f <;> exact .inl ⟨_, rfl⟩
  | fwr f v =>
    cases f with
    | named f => exact .inr (.inl ⟨by simp [WritesCw], _, _, rfl⟩)
    | reserved k => exact .inl ⟨_, rfl⟩
  | twr tf tc => exact .inr (.inl ⟨by simp [WritesCw], _, _, rfl⟩)
  | send r => exact .inr (.inr (.inr (.inl ⟨r, rfl, rfl⟩)))
  | decode => exact .inr (.inr (.inr (.inr ⟨rfl, exec_decode_frame s⟩)))
  | rrd q => cases q <;> exact .inl ⟨_, rfl⟩
  | reservedOpc k => exact .inl ⟨_, rfl⟩
  | pwron => exact .inr (.inl ⟨by simp [WritesCw], _, _, rfl⟩)
  | pwroff => exact .inr (.inl ⟨by simp [WritesCw], _, _, rfl⟩)
  | unitc => exact .inr (.inl ⟨by simp [WritesCw], _, _, rfl⟩)
  | unitf => exact .inr (.inl ⟨by simp [WritesCw], _, _, rfl⟩)
  | accept v => exact .inr (.inl ⟨by simp [WritesCw], _, _, rfl⟩)
  | hdr => exact .inr (.inr (.inl ⟨by simp [OnWire], _, rfl⟩))
  | bit0 => exact .inr (.inr (.inl ⟨by simp [OnWire], _, rfl⟩))
  | bit1 => exact .inr (.inr (.inl ⟨by simp [OnWire], _, rfl⟩))
  | trail => exact .inr (.inr (.inl ⟨by simp [OnWire], _, rfl⟩))
  | cw40 c => exact .inr (.inr (.inl ⟨by simp [OnWire], _, rfl⟩))

/-! ## The operation port (60_exceptions.md R200, R201) -/

/-- An operation word is none of the rows of the wire. -/
theorem not_onWire_decodeOp (n : Nat) (w : OpWord) : ¬ OnWire (decodeOp n w) := by
  rcases decodeOp_cases n w with ⟨-, h⟩ | ⟨-, h⟩ | ⟨-, h⟩ | ⟨-, h⟩ | ⟨-, h⟩ | ⟨-, h⟩ | ⟨-, h⟩ |
    ⟨-, h⟩ | ⟨-, h⟩ <;> simp [h, OnWire]

/-- An operation word is answered with a response, and takes no word off the port itself. -/
theorem exec_decodeOp_answers (n : Nat) (w : OpWord) (s : State) :
    ∃ t r, exec (decodeOp n w) s = .next t ∧ t.host = s.host ∧ t.rsp = some r := by
  obtain ⟨p, h⟩ | ⟨-, c, p, h⟩ | ⟨hw, -⟩ | ⟨r, -, h⟩ | ⟨-, r, d, p, h⟩ :=
    exec_cases (decodeOp n w) s
  · exact ⟨_, _, h, rfl, rfl⟩
  · exact ⟨_, _, h, rfl, rfl⟩
  · exact absurd hw (not_onWire_decodeOp n w)
  · exact ⟨_, _, h, rfl, rfl⟩
  · exact ⟨_, _, h, rfl, rfl⟩

/-- With a word first on an idle port at the operation level the codec runs what it decodes to, with
the word gone and no old response. -/
theorem codecStep_runs {s : State} {w : OpWord} {rest : List OpWord} (hr : s.rst = false)
    (hb : s.busy = false) (hl : s.level = .operation) (hh : s.host = w :: rest) :
    codecStep s = exec (decodeOp s.par.rptW w) { s with host := rest, rsp := none } := by
  rw [codecStep_accept hr hb hh]
  exact acceptOp_operation _ hl

/-- The same as a step of the machine. -/
theorem step_runs {s : State} {w : OpWord} {rest : List OpWord} (hr : s.rst = false)
    (hb : s.busy = false) (hl : s.level = .operation) (hh : s.host = w :: rest) :
    ∃ t r, exec (decodeOp s.par.rptW w) { s with host := rest, rsp := none } = .next t ∧
      step s = .next (agentsMove t) ∧ t.host = rest ∧ t.rsp = some r := by
  obtain ⟨t, r, ht, hhost, hrsp⟩ :=
    exec_decodeOp_answers s.par.rptW w { s with host := rest, rsp := none }
  exact ⟨t, r, ht, step_of_codecStep ((codecStep_runs hr hb hl hh).trans ht), hhost, hrsp⟩

/-- The table reads 72 bits as the operation word they are, at the spec's RPT_W. -/
theorem decodeTableWord_op (w : Nat) :
    decodeTableWord 72 w = some (decodeOp 8 (BitVec.ofNat 72 w)) := rfl

/-! ## One tick of a SEND (41_encoder.md R135) -/

/-- A SEND in progress with the time base running and no reset and no other agent interfering. -/
structure Ticking (s : State) : Prop where
  rst    : s.rst = false
  txBusy : s.txBusy = true
  tick   : s.tick = true
  agents : s.agents = []

/-- The tick itself, before any transition: an earlier response ends, the segment on the line grows by
TICK_US and TX_TIMER counts down. -/
def tickDown (s : State) : State :=
  { s with
    rsp := none
    line := lengthen s.par.tickUs s.line
    tx := { s.tx with timer := s.tx.timer - 1 } }

theorem step_of_ticking {s : State} (h : Ticking s) :
    step s = .next (countTick (noResponse s)) := by
  have hc : codecStep s = .next (countTick (noResponse s)) := by
    rw [codecStep_tx h.rst h.txBusy, stepSend_running h.tick]
  have ha : (countTick (noResponse s)).agents = [] := by
    obtain ⟨-, -, -, -, -, -, -, -, -, -, hagents, -⟩ := stepSend_frame s
    rw [← stepSend_running h.tick, hagents, h.agents]
  rw [step_of_codecStep hc, agentsMove_nil ha]

/-- A tick inside a segment only counts. -/
theorem step_tick_inside {s : State} (h : Ticking s) (hs : s.tx.state ≠ .idle)
    (ht : s.tx.timer ≠ 1) : step s = .next (tickDown s) :=
  (step_of_ticking h).trans (congrArg _ (countTick_inside (s := noResponse s) hs ht))

/-- The tick that takes TX_TIMER from 1 to 0 ends the segment. -/
theorem step_tick_last {s : State} (h : Ticking s) (hs : s.tx.state ≠ .idle)
    (ht : s.tx.timer = 1) : step s = .next (endSegment (tickDown s)) :=
  (step_of_ticking h).trans (congrArg _ (countTick_last (s := noResponse s) hs ht))

/-- The step that ends a segment of state `st` leaves what follows that segment. -/
theorem step_tick_ends {s t : State} {st : TxState} (h : Ticking s) (ht : s.tx.timer = 1)
    (hs : s.tx.state = st) (hst : st ≠ .idle) (he : endSegment (tickDown s) = t) :
    step s = .next t :=
  (step_tick_last h (hs ▸ hst) ht).trans (congrArg _ he)

/-! ## The parameters (00_scope.md R8) -/

theorem exec_par {i : Instr} {s t : State} (h : exec i s = .next t) : t.par = s.par := by
  obtain ⟨p, he⟩ | ⟨-, c, p, he⟩ | ⟨-, g, he⟩ | ⟨r, -, he⟩ | ⟨-, r, d, p, he⟩ := exec_cases i s <;>
    (rw [he] at h; cases h; rfl)

/-- An accepted operation runs whole, or starts the sequencer of SEND or of DECODE. -/
theorem acceptOp_cases (i : Instr) (s : State) :
    acceptOp i s = exec i s ∨ (∃ r, i = .send r ∧ acceptOp i s = .next (startSend r s)) ∨
      (i = .decode ∧ acceptOp i s = .next (startDecode s)) := by
  cases hl : s.level with
  | operation => exact .inl (acceptOp_operation i hl)
  | tick =>
    by_cases hd : i = .decode
    · subst hd
      exact .inr (.inr ⟨rfl, acceptOp_decode hl⟩)
    · by_cases hs : ∃ r, i = .send r
      · obtain ⟨r, rfl⟩ := hs
        exact .inr (.inl ⟨r, rfl, acceptOp_send r hl⟩)
      · exact .inl (acceptOp_other i (fun r hr => hs ⟨r, hr⟩) hd)

theorem acceptOp_par {i : Instr} {s t : State} (h : acceptOp i s = .next t) : t.par = s.par := by
  obtain he | ⟨r, -, he⟩ | ⟨-, he⟩ := acceptOp_cases i s <;> rw [he] at h
  · exact exec_par h
  · cases h; rfl
  · cases h; rfl

theorem stepSend_par (s : State) : (stepSend s).par = s.par := by
  obtain ⟨-, -, -, -, -, -, -, -, -, -, -, -, hpar⟩ := stepSend_frame s
  exact hpar

theorem stepDecode_par (s : State) : (stepDecode s).par = s.par := by
  obtain ⟨r, b, d, p, h⟩ := stepDecode_frame s
  rw [h]

theorem codecStep_par {s t : State} (h : codecStep s = .next t) : t.par = s.par := by
  unfold codecStep at h
  split at h
  · cases h; rfl
  · split at h
    · cases h; exact stepSend_par s
    · split at h
      · cases h; exact stepDecode_par s
      · split at h
        · cases h; rfl
        · exact (acceptOp_par h).trans rfl

/-- A step that answers a next state is a step of the codec and then the agents' move. -/
theorem step_eq_next {s t : State} (h : step s = .next t) :
    ∃ u, codecStep s = .next u ∧ t = agentsMove u := by
  unfold step codecThenAgents at h
  split at h
  · next u hu => cases h; exact ⟨u, hu, rfl⟩
  · cases h
  · cases h

theorem step_par {s t : State} (h : step s = .next t) : t.par = s.par := by
  obtain ⟨u, hu, rfl⟩ := step_eq_next h
  rw [agentsMove_par, codecStep_par hu]

/-! ## The obligations -/

/-- Settles O37, from the five ways an instruction can act. -/
theorem everyInstructionKeepsWhatIsNotItsOwn :
    Obligations.EveryInstructionKeepsWhatIsNotItsOwn := by
  intro i s
  obtain ⟨p, h⟩ | ⟨hi, c, p, h⟩ | ⟨hi, g, h⟩ | ⟨r, hi, h⟩ | ⟨hi, r, d, p, h⟩ := exec_cases i s <;>
    refine ⟨_, h, rfl, rfl, rfl, rfl, rfl, rfl, rfl, rfl, rfl, ?_⟩
  · exact ⟨.inl rfl, fun _ => ⟨rfl, rfl, rfl⟩, .inr ⟨rfl, rfl⟩, by simp⟩
  · exact ⟨.inr hi, fun _ => ⟨rfl, rfl, rfl⟩, .inr ⟨rfl, rfl⟩, by simp⟩
  · refine ⟨.inl rfl, fun _ => ⟨rfl, rfl, rfl⟩, .inr ⟨rfl, rfl⟩, ?_⟩
    rcases hi with rfl | rfl | rfl | rfl | ⟨c, rfl⟩ <;> simp
  · exact ⟨.inl rfl, fun _ => ⟨rfl, rfl, rfl⟩, .inl ⟨r, hi⟩, .inl ⟨r, hi⟩⟩
  · exact ⟨.inl rfl, fun hn => absurd hi hn, .inr ⟨rfl, rfl⟩, by simp⟩

/-- Settles O53, by induction on the cells of the buffer (`Memory.read_write`). -/
theorem storedEntryIsReadBackAndNoOtherChanges :
    Obligations.StoredEntryIsReadBackAndNoOtherChanges :=
  fun _ m _ j _ hm => Memory.read_write m j hm

/-- Settles O25: each window is a quarter below and above its nominal. -/
theorem matchHasTheListedWindows : Obligations.MatchHasTheListedWindows := by
  refine ⟨fun _ _ _ => matchDur_eq_true, fun m => ?_⟩
  simp only [matchDur_quarter]
  omega

/-- Settles O26: 3 * 720 < 2400 and 3 * 840 < 2700. -/
theorem windowsAreDisjointUpToFiftyPercent : Obligations.WindowsAreDisjointUpToFiftyPercent :=
  fun tol _ ht => ⟨matchDur_disjoint ht (by omega), matchDur_disjoint ht (by omega),
    fun n _ => matchDur_self tol n⟩

/-- Settles O39; the second clause is the first for the state `presentFirst` makes. -/
theorem stepRunsTheDecodedInstruction : Obligations.StepRunsTheDecodedInstruction := by
  refine ⟨fun s w rest hr hb hl hh => step_runs hr hb hl hh, fun s w _ hp => ?_⟩
  obtain ⟨t, -, ht, hstep, -⟩ :=
    step_runs (s := presentFirst (BitVec.ofNat 72 w) s) (rest := s.host) rfl rfl rfl rfl
  have hrpt : (presentFirst (BitVec.ofNat 72 w) s).par.rptW = 8 := hp
  rw [hrpt] at ht
  exact ⟨_, t, decodeTableWord_op w, ht, hstep⟩

/-- Settles O44, transition by transition, from what follows each segment (`endSegment`). -/
theorem encoderSequencerTakesTheListedTransitions :
    Obligations.EncoderSequencerTakesTheListedTransitions := by
  refine ⟨fun d => by rw [timerFor, Nat.div_one], fun s hr hb hk ha => ?_⟩
  have h : Ticking s := ⟨hr, hb, hk, ha⟩
  refine ⟨?_, ?_, ?_, ?_, ?_, ?_, ?_, ?_⟩
  · intro hs ht
    exact ⟨_, step_tick_inside h hs ht, rfl, rfl, hb, rfl⟩
  · intro ht hs
    exact ⟨_, step_tick_ends h ht hs (by decide) (endSegment_hdrM hs), rfl, rfl, rfl⟩
  · intro ht hs
    exact ⟨_, step_tick_ends h ht hs (by decide) (endSegment_hdrS hs), rfl, rfl, rfl⟩
  · intro ht hs
    exact ⟨_, step_tick_ends h ht hs (by decide) (endSegment_bitM hs), rfl, rfl, rfl⟩
  · intro ht hs hbits
    exact ⟨_, step_tick_ends h ht hs (by decide) (endSegment_bitS_more hs hbits), rfl, rfl, rfl⟩
  · intro ht hs hbits
    exact ⟨_, step_tick_ends h ht hs (by decide) (endSegment_bitS_last hs hbits), rfl, rfl, rfl⟩
  · intro ht hs hf
    exact ⟨_, step_tick_ends h ht hs (by decide) (endSegment_trail_more hs hf), rfl, rfl, rfl⟩
  · intro ht hs hf
    refine ⟨_, step_tick_ends h ht hs (by decide) (endSegment_trail_last hs hf), rfl, rfl, rfl, ?_⟩
    simp [tickDown, ht, hf]

/-- Settles O57: each part of a step keeps the parameters. -/
theorem parametersAreFixedForTheMachine : Obligations.ParametersAreFixedForTheMachine :=
  ⟨rfl, by decide, fun _ _ => step_par⟩

end Sys2Proof.Machine
end


section
/-! The statements of the state (10_state.md): the reset values, the layout of a command word, the
response ports, the working registers, and the invariant that every step keeps. -/

namespace Sys2Proof

open Machine

/-! ## The layout of a command word (30_encoding.md R70) -/

/-- The forty bits of a command word, field by field from bit 0 up. -/
theorem packCommand_getLsbD (c : CommandWord) (i : Nat) : (packCommand c).getLsbD i =
    if i < 8 then c.tc.getLsbD i else if i < 16 then c.tf.getLsbD (i - 8)
    else if i < 19 then c.rLow.getLsbD (i - 16) else if i < 20 then c.pwr.getLsbD (i - 19)
    else if i < 21 then c.units.getLsbD (i - 20) else if i < 22 then c.flow.getLsbD (i - 21)
    else c.rHigh.getLsbD (i - 22) := by
  simp only [packCommand, BitVec.getLsbD_append, Nat.sub_sub]
  grind

/-- Each part is a slice of the packed word: `extractLsb' start width`. -/
theorem extractLsb'_packCommand (c : CommandWord) :
    (packCommand c).extractLsb' 0 8 = c.tc ∧ (packCommand c).extractLsb' 8 8 = c.tf ∧
    (packCommand c).extractLsb' 16 3 = c.rLow ∧ (packCommand c).extractLsb' 19 1 = c.pwr ∧
    (packCommand c).extractLsb' 20 1 = c.units ∧ (packCommand c).extractLsb' 21 1 = c.flow ∧
    (packCommand c).extractLsb' 22 18 = c.rHigh := by
  refine ⟨?_, ?_, ?_, ?_, ?_, ?_, ?_⟩ <;> apply BitVec.eq_of_getLsbD_eq <;> intro i hi
  all_goals
    simp only [BitVec.getLsbD_extractLsb', packCommand_getLsbD, hi, decide_true, Bool.true_and]
    grind

theorem unpackCommand_packCommand (c : CommandWord) : unpackCommand (packCommand c) = c := by
  obtain ⟨htc, htf, hlow, hpwr, hunits, hflow, hhigh⟩ := extractLsb'_packCommand c
  simp only [unpackCommand, htc, htf, hlow, hpwr, hunits, hflow, hhigh]

theorem packCommand_unpackCommand (p : Payload) : packCommand (unpackCommand p) = p := by
  apply BitVec.eq_of_getLsbD_eq
  intro i hi
  simp only [packCommand_getLsbD, unpackCommand, BitVec.getLsbD_extractLsb']
  grind

/-- Reading a named field of forty bits is taking its slice (10_state.md R21). -/
theorem readField_setWidth (f : FieldName) (p : Payload) :
    readField f (p.setWidth 64) = (p.extractLsb' (fieldShift f) (fieldWidth f)).setWidth 64 := by
  have hw : fieldWidth f ≤ 64 := by cases f <;> decide
  have hfits : fieldShift f + fieldWidth f ≤ 40 := by cases f <;> decide
  apply BitVec.eq_of_getLsbD_eq
  intro i hi
  rw [readField, fieldRead_getLsbD _ _ _ _ hw]
  simp only [BitVec.getLsbD_setWidth, BitVec.getLsbD_extractLsb', hi, decide_true, Bool.true_and]
  grind

/-! ## The parts of the invariant, each over the components it speaks of -/

/-- The inputs' part of the invariant. -/
structure InputsInv (p : Params) (buf : Memory) (len : Nat) : Prop where
  params : p.ok = true
  buffer : buf.wf p = true
  bufLen : len < 2 ^ p.lenW

/-- The encoder's part of the invariant: TX_BUSY, `ir_out` and the working registers. -/
structure EncoderInv (p : Params) (busy out : Bool) (w : TxWork) : Prop where
  txBusy  : busy = true ↔ w.state ≠ .idle
  line    : out = markState w.state
  encoder : EncoderSane p w

/-- The decoder's part of the invariant: DEC_BUSY and the working registers. -/
structure DecoderInv (p : Params) (busy : Bool) (w : DecWork) : Prop where
  decBusy : busy = true ↔ w.state ≠ .idle
  decoder : decoderSane w
  lenQ    : w.lenQ < 2 ^ p.lenW
  offset  : w.offset < 2 ^ (p.lenW + 1)

/-- The invariant is its parts. -/
theorem inv_iff {s : State} : Inv s ↔ InputsInv s.par s.buf s.bufLen ∧ ResultsSane s.res ∧
    ¬(s.txBusy = true ∧ s.decBusy = true) ∧ EncoderInv s.par s.txBusy s.irOut s.tx ∧
    DecoderInv s.par s.decBusy s.dec :=
  ⟨fun h => ⟨⟨h.params, h.buffer, h.bufLen⟩, h.results, h.exclusive,
      ⟨h.txBusy, h.line, h.encoder⟩, ⟨h.decBusy, h.decoder, h.lenQ, h.offset⟩⟩,
    fun ⟨hin, hres, hex, htx, hdec⟩ =>
      { params := hin.params, buffer := hin.buffer, bufLen := hin.bufLen, results := hres,
        exclusive := hex, txBusy := htx.txBusy, decBusy := hdec.decBusy, line := htx.line,
        encoder := htx.encoder, decoder := hdec.decoder, lenQ := hdec.lenQ, offset := hdec.offset }⟩

/-! ## The result registers (10_state.md R23 to R27) -/

theorem resultsSane_reset : ResultsSane State.reset.res :=
  { value := by decide, bits := .inl rfl, addr := rfl, cmd := rfl, failCode := by decide
    success := by decide }

theorem failureCode_le (c : DecodeFailure) : (failureCode c).toNat ≤ 10 := by
  cases c <;> decide

theorem resultsSane_failure {r : Results} (h : ResultsSane r) (c : DecodeFailure) :
    ResultsSane (failureResults (failureCode c) r) :=
  { value := h.value, bits := h.bits, addr := h.addr, cmd := h.cmd, failCode := failureCode_le c
    success := fun hok => by cases hok }

theorem resultsSane_success {acc : Word64} (h : acc.toNat < 2 ^ 40) :
    ResultsSane (successResults acc) :=
  { value := h, bits := .inr rfl, addr := rfl, cmd := rfl, failCode := Nat.zero_le _
    success := fun _ => ⟨rfl, rfl⟩ }

/-! ## Reset and the agents -/

/-- An idle encoder, its line low, is sane with any TX_FRAMES within its width. -/
theorem encoderInv_idle {p : Params} {w : TxWork} (hs : w.state = .idle)
    (hf : w.frames ≤ 2 ^ p.rptW) : EncoderInv p false false w :=
  { txBusy := by simp [hs]
    line := by rw [hs, markState]
    encoder :=
      { timer := fun h => absurd hs h, frames := fun h => absurd hs h, width := hf
        bits := by simp [bitsSane, hs] } }

/-- Reset meets the invariant whatever the inputs are. -/
theorem inv_resetCodec {s : State} (h : InputsInv s.par s.buf s.bufLen) : Inv (resetCodec s) :=
  inv_iff.mpr ⟨h, resultsSane_reset, by simp, encoderInv_idle rfl (Nat.zero_le _),
    { decBusy := by simp [State.reset], decoder := trivial
      lenQ := Nat.two_pow_pos _, offset := Nat.two_pow_pos _ }⟩

theorem inputsInv_reset : InputsInv State.reset.par State.reset.buf State.reset.bufLen :=
  ⟨by decide, reset_buf_wf, by decide⟩

/-- The agents' moves keep the invariant: they reach inputs only. -/
theorem inv_agentsMove {s : State} (h : Inv s) : Inv (agentsMove s) := by
  have hbuf := agentsMove_wf s h.buffer
  have hlen := agentsMove_bufLen s h.bufLen
  obtain ⟨-, hrest⟩ := inv_iff.mp h
  obtain ⟨_, _, _, _, _, _, _, e⟩ := agentsMove_codec s
  rw [e] at hbuf hlen ⊢
  exact inv_iff.mpr ⟨⟨h.params, hbuf, hlen⟩, hrest⟩

/-! ## DEC_STATE beside the other working registers (10_state.md R34) -/

/-- The working registers with DEC_STATE at `st`, as `goTo` leaves them. -/
def inState (st : DecState) (w : DecWork) : DecWork := { w with state := st }

section
variable (st : DecState) (w : DecWork)

theorem goTo_eq (s : State) : goTo st w s = { s with dec := inState st w } := rfl
@[simp] theorem inState_state : (inState st w).state = st := rfl
@[simp] theorem inState_offset : (inState st w).offset = w.offset := rfl
@[simp] theorem budgetSpent_inState : budgetSpent (inState st w) = budgetSpent w := rfl
@[simp] theorem pastEnd_inState (i : Nat) : pastEnd (inState st w) i = pastEnd w i := rfl
@[simp] theorem cleanEnd_inState : cleanEnd (inState st w) = cleanEnd w := rfl
@[simp] theorem shiftAcc_inState : shiftAcc (inState st w) = inState st (shiftAcc w) := rfl
@[simp] theorem pushBit_inState (b : Bool) :
    pushBit b (inState st w) = inState st (pushBit b w) := rfl
@[simp] theorem discardBits_inState : discardBits (inState st w) = inState st (discardBits w) := rfl
@[simp] theorem advance_inState (n : Nat) :
    advance n (inState st w) = inState st (advance n w) := rfl
end

/-! ## The decoder's counters (10_state.md R30 to R34) -/

theorem bitBudget_le (len : Nat) : (bitBudget len).toNat ≤ 64 := by
  simp only [bitBudget, Config.accWidth, BitVec.toNat_ofNat]
  omega

/-- A shift and a bit gather one bit more (42_decoder.md R159). -/
theorem shiftIn_lt {acc : Word64} {n : Nat} (b : Bool) (h : acc.toNat < 2 ^ n) :
    ((acc <<< 1) ||| (if b then 1 else 0)).toNat < 2 ^ (n + 1) := by
  have hbit : (if b then 1 else 0 : Word64).toNat ≤ 1 := by cases b <;> decide
  rw [BitVec.toNat_or]
  apply Nat.or_lt_two_pow
  · rw [BitVec.toNat_shiftLeft, Nat.shiftLeft_eq]
    exact (Nat.mod_le _ _).trans_lt (by omega)
  · have := Nat.one_lt_two_pow (n := n + 1) (by omega)
    omega

theorem Counting.inState {w : DecWork} (h : Counting w) (st : DecState) : Counting (inState st w) :=
  ⟨h.long, h.budget, h.within, h.inBuffer, h.gathered⟩

theorem counting_initWork {w : DecWork} (h : Config.minLen ≤ w.lenQ) : Counting (initWork w) :=
  ⟨h, rfl, Nat.zero_le _, Nat.zero_le _, Nat.one_pos⟩

theorem Counting.advance {w : DecWork} {n : Nat} (h : Counting w) (hn : w.offset + n ≤ w.lenQ) :
    Counting (advance n w) :=
  ⟨h.long, h.budget, h.within, hn, h.gathered⟩

theorem Counting.discardBits {w : DecWork} (h : Counting w) : Counting (discardBits w) :=
  ⟨h.long, h.budget, Nat.zero_le _, h.inBuffer, Nat.one_pos⟩

theorem budgetSpent_eq_false {w : DecWork} :
    budgetSpent w = false ↔ w.nbits.toNat < w.maxBits.toNat := by
  simp [budgetSpent]

theorem pastEnd_eq_false {w : DecWork} {i : Nat} : pastEnd w i = false ↔ i < w.lenQ := by
  simp [pastEnd]

/-- Neither past the end nor outside its window: the entry is within the buffer. -/
theorem lt_lenQ_of_present {w : DecWork} {i : Nat} {b : Bool} (h : ¬(pastEnd w i || b) = true) :
    i < w.lenQ :=
  pastEnd_eq_false.mp (Bool.or_eq_false_iff.mp (Bool.eq_false_of_not_eq_true h)).1

/-- NBITS does not wrap: MAXBITS is at most 64 (10_state.md R32). -/
theorem Counting.pushBit_nbits {w : DecWork} (h : Counting w) (hb : budgetSpent w = false)
    (b : Bool) : (pushBit b w).nbits.toNat = w.nbits.toNat + 1 := by
  have hlt := budgetSpent_eq_false.mp hb
  have h64 := bitBudget_le w.lenQ
  rw [← h.budget] at h64
  rw [Machine.pushBit, BitVec.toNat_add, show (1 : BitVec 7).toNat = 1 from rfl]
  omega

theorem Counting.pushBit {w : DecWork} (h : Counting w) (hb : budgetSpent w = false)
    (hp : pastEnd w w.offset = false) (b : Bool) : Counting (pushBit b w) := by
  have hn := h.pushBit_nbits hb b
  have hlt := budgetSpent_eq_false.mp hb
  refine ⟨h.long, h.budget, ?_, pastEnd_eq_false.mp hp, ?_⟩
  · rw [hn]
    exact hlt
  · rw [hn]
    exact shiftIn_lt b h.gathered

/-- A clean end leaves forty bits (42_decoder.md R162). -/
theorem Counting.clean {w : DecWork} (h : Counting w) (hc : cleanEnd w = true) :
    w.acc.toNat < 2 ^ 40 := by
  simp only [cleanEnd, Bool.and_eq_true, decide_eq_true_eq] at hc
  obtain ⟨hn, -⟩ := hc
  have hg := h.gathered
  rw [hn] at hg
  exact hg

/-! ## DECODE at the operation level -/

/-- One pass of the bit loop fails where it stands, or counts a bit and ends cleanly, goes on behind an
inter-bit space, or goes on behind a repeated header with no bits (42_decoder.md R159 to R166). -/
theorem decodeLoop_pass (tol : Nat) (buf : Memory) (n : Nat) (w : DecWork) :
    (∃ c w', decodeLoop tol buf (n + 1) w = (.failure c, w') ∧ w'.lenQ = w.lenQ ∧
      (w'.offset = w.offset ∨ pastEnd w w.offset = false ∧ w'.offset = w.offset + 1)) ∨
    (budgetSpent w = false ∧ pastEnd w w.offset = false ∧ ∃ b,
      (cleanEnd (pushBit b w) = true ∧ decodeLoop tol buf (n + 1) w = (.success, pushBit b w) ∨
      pastEnd w (w.offset + 1) = false ∧
        decodeLoop tol buf (n + 1) w = decodeLoop tol buf n (advance 1 (pushBit b w)) ∨
      pastEnd w (w.offset + 3) = false ∧ decodeLoop tol buf (n + 1) w =
        decodeLoop tol buf n (advance 3 (discardBits (pushBit b w))))) := by
  cases hb : budgetSpent w with
  | true => exact .inl ⟨_, _, decodeLoop_spent hb, rfl, .inl rfl⟩
  | false =>
  cases hp : pastEnd w w.offset with
  | true => exact .inl ⟨_, _, decodeLoop_noMark hb hp, rfl, .inl rfl⟩
  | false =>
  cases hm : classifyMark tol (buf.read w.offset) with
  | none => exact .inl ⟨_, _, decodeLoop_badMark hb hp hm, rfl, .inl rfl⟩
  | some b =>
  simp only [decodeLoop, hb, hp, hm, Bool.false_eq_true, if_false, true_and]
  split
  · next hc => exact .inr ⟨b, .inl ⟨hc, rfl⟩⟩
  split
  · exact .inl ⟨_, _, rfl, rfl, .inr rfl⟩
  · next hp1 =>
  split
  · split
    · exact .inl ⟨_, _, rfl, rfl, .inr rfl⟩
    split
    · exact .inl ⟨_, _, rfl, rfl, .inr rfl⟩
    · next hp3 =>
      exact .inr ⟨b, .inr (.inr ⟨pastEnd_eq_false.mpr (lt_lenQ_of_present (w := w) hp3), rfl⟩)⟩
  · exact .inr ⟨b, .inr (.inl ⟨Bool.eq_false_of_not_eq_true hp1, rfl⟩)⟩
  · exact .inl ⟨_, _, rfl, rfl, .inr rfl⟩

/-- What a DECODE from `w` leaves: LEN_Q as sampled, OFFSET never past it, and forty bits after a success
(10_state.md R30, R34, 42_decoder.md R162). -/
structure EndsSane (w : DecWork) (r : DecodeEnd × DecWork) : Prop where
  lenQ     : r.2.lenQ = w.lenQ
  offset   : r.2.offset ≤ max w.offset w.lenQ
  gathered : r.1 = .success → r.2.acc.toNat < 2 ^ 40

theorem EndsSane.of_failure {w w' : DecWork} (c : DecodeFailure) (hl : w'.lenQ = w.lenQ)
    (ho : w'.offset ≤ max w.offset w.lenQ) : EndsSane w (.failure c, w') :=
  ⟨hl, ho, fun h => by cases h⟩

/-- What is left from registers within the buffer is what is left from where they came from. -/
theorem EndsSane.of_later {w w' : DecWork} {r : DecodeEnd × DecWork} (h : EndsSane w' r)
    (hl : w'.lenQ = w.lenQ) (ho : w'.offset ≤ w'.lenQ) : EndsSane w r :=
  ⟨h.lenQ.trans hl, by have := h.offset; omega, h.gathered⟩

theorem decodeLoop_endsSane (tol : Nat) (buf : Memory) (n : Nat) :
    ∀ {w : DecWork}, Counting w → EndsSane w (decodeLoop tol buf n w) := by
  induction n with
  | zero => exact fun {w} _ => .of_failure .budget rfl (le_max_left _ _)
  | succ n ih =>
    intro w hw
    obtain ⟨c, w', e, hl, ho⟩ | ⟨hb, hp, b, ⟨hc, e⟩ | ⟨hp1, e⟩ | ⟨hp3, e⟩⟩ :=
      decodeLoop_pass tol buf n w <;> rw [e]
    · refine .of_failure c hl ?_
      rw [pastEnd_eq_false] at ho
      omega
    · have hpush := hw.pushBit hb hp b
      exact ⟨rfl, hpush.inBuffer.trans (le_max_right _ _), fun _ => hpush.clean hc⟩
    · have hnext := (hw.pushBit hb hp b).advance (n := 1) (pastEnd_eq_false.mp hp1)
      exact (ih hnext).of_later rfl hnext.inBuffer
    · have hnext := (hw.pushBit hb hp b).discardBits.advance (n := 3) (by
        have := pastEnd_eq_false.mp hp3
        simp only [Machine.pushBit, Machine.discardBits]
        omega)
      exact (ih hnext).of_later rfl hnext.inBuffer

theorem decodeBuffer_endsSane (tol : Nat) (buf : Memory) (w : DecWork) :
    EndsSane w (decodeBuffer tol buf w) := by
  unfold decodeBuffer
  split
  · exact .of_failure _ rfl (le_max_left _ _)
  split
  · exact .of_failure _ rfl (le_max_left _ _)
  · next hlen =>
  have hlong : Config.minLen ≤ w.lenQ := Nat.le_of_not_lt hlen
  have h2 : 1 + 1 ≤ w.lenQ := le_trans (by decide) hlong
  have hhdr := (counting_initWork hlong).advance (n := 1) (Nat.le_of_succ_le h2)
  split
  · exact .of_failure _ rfl (Nat.zero_le _)
  split
  · exact .of_failure _ rfl (le_max_of_le_right hhdr.inBuffer)
  · have hbits := hhdr.advance (n := 1) h2
    exact (decodeLoop_endsSane tol buf _ hbits).of_later rfl hbits.inBuffer

/-! ## DECODE at the tick level -/

/-- What a step of a sane sequencer can answer: a failure that leaves the counters, a success with forty
bits, or a sane state of the sequencer with OFFSET within the buffer. -/
inductive DecoderAnswers (s : State) : State → Prop
  | fails (c : DecodeFailure) (w : DecWork) (hl : w.lenQ = s.dec.lenQ)
      (ho : w.offset = s.dec.offset) : DecoderAnswers s (failWith c w s)
  | succeeds (h : s.dec.acc.toNat < 2 ^ 40) : DecoderAnswers s (decodeOk s)
  | goesOn (st : DecState) (w : DecWork) (hst : st ≠ .idle) (h : decoderSane (inState st w))
      (hl : w.lenQ = s.dec.lenQ) (ho : w.offset ≤ w.lenQ) : DecoderAnswers s (goTo st w s)

theorem answers_check {s : State} (hst : s.dec.state = .check) :
    DecoderAnswers s (advanceDecode s) := by
  simp only [advanceDecode, hst]
  split
  · exact .fails _ _ rfl rfl
  split
  · exact .fails _ _ rfl rfl
  · next hlen =>
    have hw := counting_initWork (Nat.le_of_not_lt hlen)
    exact .goesOn _ _ (by decide) ⟨hw.inState _, rfl, rfl⟩ rfl hw.inBuffer

theorem answers_hdrM {s : State} (hst : s.dec.state = .hdrM) (hw : Counting s.dec)
    (ho : s.dec.offset = 0) (hn : s.dec.nbits = 0) : DecoderAnswers s (advanceDecode s) := by
  have hnext := hw.advance (n := 1) (by rw [ho]; exact le_trans (by decide) hw.long)
  simp only [advanceDecode, hst]
  split
  · exact .goesOn _ _ (by decide) ⟨hnext.inState _, congrArg (· + 1) ho, hn⟩ rfl hnext.inBuffer
  · exact .fails _ _ rfl rfl

theorem answers_hdrS {s : State} (hst : s.dec.state = .hdrS) (hw : Counting s.dec)
    (ho : s.dec.offset = 1) : DecoderAnswers s (advanceDecode s) := by
  have hnext := hw.advance (n := 1) (by rw [ho]; exact le_trans (by decide) hw.long)
  simp only [advanceDecode, hst]
  split
  · exact .goesOn _ _ (by decide) ⟨hnext.inState _, (congrArg (· + 1) ho).ge⟩ rfl hnext.inBuffer
  · exact .fails _ _ rfl rfl

theorem answers_bitM {s : State} (hst : s.dec.state = .bitM) (hw : Counting s.dec)
    (ho : 2 ≤ s.dec.offset) : DecoderAnswers s (advanceDecode s) := by
  simp only [advanceDecode, hst]
  split
  · exact .fails _ _ rfl rfl
  · next hb =>
  split
  · exact .fails _ _ rfl rfl
  · next hp =>
  split
  · exact .fails _ _ rfl rfl
  · next b _ =>
    have hb := Bool.eq_false_of_not_eq_true hb
    have hnext := hw.pushBit hb (Bool.eq_false_of_not_eq_true hp) b
    have hbits : 1 ≤ (pushBit b s.dec).nbits.toNat :=
      (hw.pushBit_nbits hb b).symm ▸ Nat.le_add_left _ _
    exact .goesOn _ _ (by decide) ⟨hnext.inState _, hbits, Nat.succ_le_succ ho⟩ rfl hnext.inBuffer

theorem answers_afterM {s : State} (hst : s.dec.state = .afterM) (hw : Counting s.dec)
    (ho : 3 ≤ s.dec.offset) : DecoderAnswers s (advanceDecode s) := by
  simp only [advanceDecode, hst]
  split
  · next hc => exact .succeeds (hw.clean hc)
  split
  · exact .fails _ _ rfl rfl
  · next hp =>
  have hlt := pastEnd_eq_false.mp (Bool.eq_false_of_not_eq_true hp)
  split
  · exact .goesOn _ _ (by decide) ⟨hw.discardBits.inState _, rfl, hlt⟩ rfl hlt.le
  · have hnext := hw.advance (n := 1) hlt
    have hoff : 2 ≤ s.dec.offset + 1 := by omega
    exact .goesOn _ _ (by decide) ⟨hnext.inState _, hoff⟩ rfl hnext.inBuffer
  · exact .fails _ _ rfl rfl

theorem answers_rsyM {s : State} (hst : s.dec.state = .rsyM) (hw : Counting s.dec)
    (hn : s.dec.nbits = 0) : DecoderAnswers s (advanceDecode s) := by
  simp only [advanceDecode, hst]
  split
  · exact .fails _ _ rfl rfl
  · next hp =>
    exact .goesOn _ _ (by decide) ⟨hw.inState _, hn, lt_lenQ_of_present hp⟩ rfl hw.inBuffer

theorem answers_rsyS {s : State} (hst : s.dec.state = .rsyS) (hw : Counting s.dec) :
    DecoderAnswers s (advanceDecode s) := by
  simp only [advanceDecode, hst]
  split
  · exact .fails _ _ rfl rfl
  · next hp =>
    have hnext := hw.advance (n := 3) (lt_lenQ_of_present hp)
    have hoff : 2 ≤ s.dec.offset + 3 := by omega
    exact .goesOn _ _ (by decide) ⟨hnext.inState _, hoff⟩ rfl hnext.inBuffer

theorem advanceDecode_answers {s : State} (hs : s.dec.state ≠ .idle) (hd : decoderSane s.dec) :
    DecoderAnswers s (advanceDecode s) := by
  unfold decoderSane at hd
  split at hd <;> rename_i hst
  · exact absurd hst hs
  · exact answers_check hst
  · obtain ⟨hw, ho, hn⟩ := hd
    exact answers_hdrM hst hw ho hn
  · obtain ⟨hw, ho, -⟩ := hd
    exact answers_hdrS hst hw ho
  · obtain ⟨hw, ho⟩ := hd
    exact answers_bitM hst hw ho
  · obtain ⟨hw, -, ho⟩ := hd
    exact answers_afterM hst hw ho
  · obtain ⟨hw, hn, -⟩ := hd
    exact answers_rsyM hst hw hn
  · obtain ⟨hw, -, -⟩ := hd
    exact answers_rsyS hst hw

theorem decoderInv_idle {p : Params} {w : DecWork} (hl : w.lenQ < 2 ^ p.lenW)
    (ho : w.offset < 2 ^ (p.lenW + 1)) : DecoderInv p false (inState .idle w) :=
  ⟨by simp, trivial, hl, ho⟩

/-- The end of a DECODE meets the invariant where its working registers are in their widths. -/
theorem inv_decodeFail {s : State} (h : Inv s) (c : DecodeFailure) {w : DecWork}
    (hl : w.lenQ < 2 ^ s.par.lenW) (ho : w.offset < 2 ^ (s.par.lenW + 1)) :
    Inv (decodeFail c { s with dec := w }) := by
  obtain ⟨hin, hres, -, htx, -⟩ := inv_iff.mp h
  exact inv_iff.mpr ⟨hin, resultsSane_failure hres c, by simp, htx, decoderInv_idle hl ho⟩

theorem inv_decodeOk {s : State} (h : Inv s) {w : DecWork} (hg : w.acc.toNat < 2 ^ 40)
    (hl : w.lenQ < 2 ^ s.par.lenW) (ho : w.offset < 2 ^ (s.par.lenW + 1)) :
    Inv (decodeOk { s with dec := w }) := by
  obtain ⟨hin, -, -, htx, -⟩ := inv_iff.mp h
  exact inv_iff.mpr ⟨hin, resultsSane_success hg, by simp, htx, decoderInv_idle hl ho⟩

/-- DECODE as one step keeps the invariant. -/
theorem inv_finishDecode {s : State} (h : Inv s) {r : DecodeEnd × DecWork}
    (hr : EndsSane (sampleInputs s) r) : Inv (finishDecode r.1 { s with dec := r.2 }) := by
  have hl : r.2.lenQ < 2 ^ s.par.lenW := hr.lenQ.trans_lt h.bufLen
  have ho : r.2.offset < 2 ^ (s.par.lenW + 1) :=
    hr.offset.trans_lt (max_lt h.offset (h.bufLen.trans (Nat.pow_lt_pow_succ (by decide))))
  obtain ⟨he, e⟩ | ⟨c, -, e⟩ := finishDecode_cases r.1 { s with dec := r.2 } <;> rw [e]
  · exact inv_decodeOk h (hr.gathered he) hl ho
  · exact inv_decodeFail h c hl ho

/-- A step of a DECODE in progress keeps the invariant. -/
theorem inv_advanceDecode {s : State} (h : Inv s) (hb : s.decBusy = true) :
    Inv (advanceDecode s) := by
  generalize hu : advanceDecode s = u
  have hans := hu ▸ advanceDecode_answers (h.decBusy.mp hb) h.decoder
  cases hans with
  | fails c w hl ho => exact inv_decodeFail h c (hl ▸ h.lenQ) (ho ▸ h.offset)
  | succeeds hg => exact inv_decodeOk h hg h.lenQ h.offset
  | goesOn st w hst hw hl ho =>
    obtain ⟨hin, hres, hex, htx, -⟩ := inv_iff.mp h
    have hlen : w.lenQ < 2 ^ s.par.lenW := hl ▸ h.lenQ
    have hoff : w.offset < 2 ^ (s.par.lenW + 1) :=
      (ho.trans_lt hlen).trans (Nat.pow_lt_pow_succ (by decide))
    exact inv_iff.mpr ⟨hin, hres, hex, htx, ⟨by simp [hb, hst], hw, hlen, hoff⟩⟩

/-- Acceptance of a DECODE keeps the invariant. -/
theorem inv_startDecode {s : State} (h : Inv s) (ht : s.txBusy = false) : Inv (startDecode s) := by
  obtain ⟨hin, hres, -, htx, -⟩ := inv_iff.mp h
  exact inv_iff.mpr ⟨hin, hres, by simp [ht], htx, ⟨by simp, trivial, h.bufLen, h.offset⟩⟩

/-! ## Working registers (10_state.md R42) -/

/-- The bit loop neither reads nor writes DEC_STATE. -/
theorem decodeLoop_inState (tol : Nat) (buf : Memory) (st : DecState) (n : Nat) :
    ∀ w : DecWork, decodeLoop tol buf n (inState st w) =
      ((decodeLoop tol buf n w).1, inState st (decodeLoop tol buf n w).2) := by
  induction n with
  | zero => exact fun _ => rfl
  | succ n ih =>
    intro w
    simp only [decodeLoop, budgetSpent_inState, pastEnd_inState, cleanEnd_inState, shiftAcc_inState,
      pushBit_inState, discardBits_inState, advance_inState, inState_offset, ih]
    repeat' split
    all_goals rfl

/-- Acceptance overwrites what an earlier DECODE left but for DEC_STATE (42_decoder.md R154). -/
theorem initWork_eq {d e : DecWork} (hl : d.lenQ = e.lenQ) (ho : d.ovfQ = e.ovfQ) :
    initWork d = inState d.state (initWork e) := by
  simp only [initWork, inState, hl, ho]

/-- How a DECODE ends, and ACC after a success, depend on the sampled inputs alone. -/
theorem decodeBuffer_result (tol : Nat) (buf : Memory) {d e : DecWork} (hl : d.lenQ = e.lenQ)
    (ho : d.ovfQ = e.ovfQ) : (decodeBuffer tol buf d).1 = (decodeBuffer tol buf e).1 ∧
      ((decodeBuffer tol buf e).1 = .success →
        (decodeBuffer tol buf d).2.acc = (decodeBuffer tol buf e).2.acc) := by
  simp only [decodeBuffer, hl, ho, initWork_eq hl ho, advance_inState, decodeLoop_inState]
  split
  · exact ⟨rfl, fun h => by cases h⟩
  split
  · exact ⟨rfl, fun h => by cases h⟩
  split
  · exact ⟨rfl, fun h => by cases h⟩
  split
  · exact ⟨rfl, fun h => by cases h⟩
  · exact ⟨rfl, fun _ => rfl⟩

/-- The end of a DECODE takes of the working registers only ACC, and that in a success. -/
theorem finishDecode_withWorking {e e' : DecodeEnd} (he : e' = e) {d : DecWork} (x : TxWork)
    (s : State) (h : e = .success → d.acc = s.dec.acc) : finishDecode e' (withWorking d x s) =
      withWorking (inState .idle d) x (finishDecode e s) := by
  subst he
  cases e' with
  | success =>
    have hres : successResults d.acc = successResults s.dec.acc := congrArg _ (h rfl)
    simp only [finishDecode, decodeOk, respond, withWorking, inState, hres]
  | failure c => rfl

/-- DECODE with other working registers differs in working registers only. -/
theorem exec_decode_withWorking (s : State) (d : DecWork) (x : TxWork) : ∃ t d' x',
    exec .decode s = .next t ∧ exec .decode (withWorking d x s) = .next (withWorking d' x' t) := by
  obtain ⟨hend, hacc⟩ := decodeBuffer_result s.par.tolPct s.buf
    (d := sampleInputs (withWorking d x s)) (e := sampleInputs s) rfl rfl
  have hfinish := finishDecode_withWorking hend x
    { s with dec := (decodeBuffer s.par.tolPct s.buf (sampleInputs s)).2 } hacc
  exact ⟨_, _, x, exec_decode s, congrArg Host.Outcome.next hfinish⟩

/-! ## The encoder (10_state.md R35 to R39, 41_encoder.md) -/

/-- Every emitted duration is at least one tick and at most HDR_MARK of them (00_scope.md R8). -/
theorem timerFor_bounds {p : Params} {d : Nat} (hp : p.ok = true) (hd : d ∈ Config.emitted) :
    1 ≤ (timerFor p.tickUs d).toNat ∧ (timerFor p.tickUs d).toNat ≤ Config.hdrMark := by
  simp only [Params.ok, Bool.and_eq_true, List.all_eq_true, beq_iff_eq] at hp
  obtain ⟨⟨⟨⟨-, htick⟩, -⟩, -⟩, -⟩ := hp
  have hrange : ∀ e ∈ Config.emitted, 1 ≤ e ∧ e ≤ 7000 := by decide
  obtain ⟨hpos, hle⟩ := hrange d hd
  have hdvd : p.tickUs ∣ d := Nat.dvd_of_mod_eq_zero (htick d hd)
  have hticks : 1 ≤ d / p.tickUs :=
    Nat.div_pos (Nat.le_of_dvd hpos hdvd) (Nat.pos_of_dvd_of_pos hdvd hpos)
  have hmax : d / p.tickUs ≤ 7000 := (Nat.div_le_self _ _).trans hle
  rw [timerFor, BitVec.toNat_ofNat, Nat.mod_eq_of_lt (by omega)]
  exact ⟨hticks, hmax⟩

/-- What entering a segment leaves as it is, as the invariant wants it of a SEND in progress; timer, line
and bits come with the segment. -/
structure Entering (s : State) : Prop where
  params : s.par.ok = true
  txBusy : s.txBusy = true
  frames : 1 ≤ s.tx.frames
  width  : s.tx.frames ≤ 2 ^ s.par.rptW

/-- A segment entered with the bits its state allows. -/
theorem encoderInv_enterSegment {s : State} (h : Entering s) {st : TxState} {d : Nat}
    (hst : st ≠ .idle) (hd : d ∈ Config.emitted)
    (hbits : bitsSane { s.tx with state := st, timer := timerFor s.par.tickUs d }) :
    EncoderInv s.par (enterSegment st d s).txBusy (enterSegment st d s).irOut
      (enterSegment st d s).tx :=
  { txBusy := ⟨fun _ => hst, fun _ => h.txBusy⟩
    line := rfl
    encoder :=
      { timer := fun _ => timerFor_bounds h.params hd
        frames := fun _ => h.frames
        width := h.width
        bits := hbits } }

theorem encoderInv_startBit {s : State} (h : Entering s) (h1 : 1 ≤ s.tx.bits.toNat)
    (h40 : s.tx.bits.toNat ≤ 40) :
    EncoderInv s.par (startBit s).txBusy (startBit s).irOut (startBit s).tx :=
  encoderInv_enterSegment h (by decide) (by split <;> decide) ⟨h1, h40⟩

theorem encoderInv_startFrame {s : State} (h : Entering s) :
    EncoderInv s.par (startFrame s).txBusy (startFrame s).irOut (startFrame s).tx :=
  encoderInv_enterSegment (s := { s with tx := { s.tx with sr := payloadOf s.cw, bits := 40 } })
    ⟨h.params, h.txBusy, h.frames, h.width⟩ (by decide) (by decide) rfl

/-- What follows a segment keeps the encoder's part of the invariant (41_encoder.md R137 to R141). -/
theorem encoderInv_endSegment {s : State} (h : Entering s) (hline : s.irOut = markState s.tx.state)
    (hs : s.tx.state ≠ .idle) (hbits : bitsSane s.tx) :
    EncoderInv s.par (endSegment s).txBusy (endSegment s).irOut (endSegment s).tx := by
  cases hst : s.tx.state with
  | idle => exact absurd hst hs
  | hdrM =>
    simp only [bitsSane, hst] at hbits
    rw [endSegment_hdrM hst]
    exact encoderInv_enterSegment h (by decide) (by decide) hbits
  | hdrS =>
    simp only [bitsSane, hst] at hbits
    rw [endSegment_hdrS hst]
    exact encoderInv_startBit h (by rw [hbits]; decide) (by rw [hbits]; decide)
  | bitM =>
    simp only [bitsSane, hst] at hbits
    obtain ⟨h1, h40⟩ := hbits
    rw [endSegment_bitM hst]
    refine encoderInv_enterSegment
      (s := { s with tx := { s.tx with sr := s.tx.sr <<< 1, bits := s.tx.bits - 1 } })
      ⟨h.params, h.txBusy, h.frames, h.width⟩ (by decide) (by decide) ?_
    show (s.tx.bits - 1).toNat ≤ 39
    bv_omega
  | bitS =>
    simp only [bitsSane, hst] at hbits
    by_cases h0 : s.tx.bits = 0
    · rw [endSegment_bitS_last hst h0]
      exact encoderInv_enterSegment h (by decide) (by decide) h0
    · rw [endSegment_bitS_more hst h0]
      exact encoderInv_startBit h (by bv_omega) (by omega)
  | trail =>
    by_cases h0 : s.tx.frames - 1 = 0
    · rw [endSegment_trail_last hst h0]
      rw [hst, markState] at hline
      rw [respond_irOut, hline]
      exact encoderInv_idle rfl ((Nat.sub_le _ _).trans h.width)
    · rw [endSegment_trail_more hst h0]
      exact encoderInv_startFrame (s := { s with tx := { s.tx with frames := s.tx.frames - 1 } })
        ⟨h.params, h.txBusy, Nat.pos_of_ne_zero h0, (Nat.sub_le _ _).trans h.width⟩

/-- A step of a SEND in progress keeps the encoder's part of the invariant. -/
theorem encoderInv_stepSend {s : State} (h : Inv s) (hb : s.txBusy = true) :
    EncoderInv s.par (stepSend s).txBusy (stepSend s).irOut (stepSend s).tx := by
  obtain ⟨-, -, -, htx, -⟩ := inv_iff.mp h
  have hs := h.txBusy.mp hb
  have hbits : bitsSane (tickDown s).tx := h.encoder.bits
  cases hk : s.tick with
  | false => rw [stepSend_stopped hk]; exact htx
  | true =>
    rw [stepSend_running hk]
    by_cases ht : s.tx.timer = 1
    · rw [countTick_last (s := noResponse s) hs ht]
      exact encoderInv_endSegment (s := tickDown s)
        ⟨h.params, hb, h.encoder.frames hs, h.encoder.width⟩ h.line hs hbits
    · rw [countTick_inside (s := noResponse s) hs ht]
      obtain ⟨h1, hmax⟩ := h.encoder.timer hs
      refine ⟨h.txBusy, h.line, ⟨fun _ => ?_, h.encoder.frames, h.encoder.width, hbits⟩⟩
      show 1 ≤ (s.tx.timer - 1).toNat ∧ (s.tx.timer - 1).toNat ≤ Config.hdrMark
      simp only [Config.hdrMark] at hmax ⊢
      bv_omega

theorem inv_stepSend {s : State} (h : Inv s) (hb : s.txBusy = true) : Inv (stepSend s) := by
  obtain ⟨hin, hres, hex, -, hdec⟩ := inv_iff.mp h
  have henc := encoderInv_stepSend h hb
  have hidle : s.decBusy = false := Bool.eq_false_of_not_eq_true fun hd => hex ⟨hb, hd⟩
  obtain ⟨-, eres, edec, edecBusy, -, -, -, ebufLen, -, ebuf, -, -, epar⟩ := stepSend_frame s
  rw [inv_iff, epar, ebuf, ebufLen, eres, edec, edecBusy]
  exact ⟨hin, hres, by simp [hidle], henc, hdec⟩

/-- Acceptance of a SEND keeps the invariant: R + 1 frames are at most 2^RPT_W. -/
theorem inv_startSend {s : State} (h : Inv s) (hd : s.decBusy = false) {r : Nat}
    (hr : r < repeatBound s.par.rptW) : Inv (startSend r s) := by
  obtain ⟨hin, hres, -, -, hdec⟩ := inv_iff.mp h
  have hwidth : r + 1 ≤ 2 ^ s.par.rptW :=
    hr.trans_le (Nat.pow_le_pow_right (by decide) (min_le_left _ _))
  exact inv_iff.mpr ⟨hin, hres, fun hb => by simp [startSend, startFrame, enterSegment, hd] at hb,
    encoderInv_startFrame
      (s := { s with txBusy := true, tx := { s.tx with frames := r + 1 } })
      ⟨h.params, rfl, Nat.le_add_left _ _, hwidth⟩, hdec⟩

theorem lastLevel_append (a b : List Segment) (l : Bool) :
    lastLevel l (a ++ b) = lastLevel (lastLevel l a) b := by
  induction a generalizing l with
  | nil => rfl
  | cons g rest ih => exact ih g.level

/-- Every frame ends in a space, so a SEND leaves the line low (41_encoder.md R127). -/
theorem lastLevel_frames (p : Payload) (n : Nat) :
    ∀ l : Bool, lastLevel l (framesSegments (n + 1) p) = false := by
  induction n with
  | zero =>
    intro l
    simp [framesSegments, frameSegments, lastLevel_append, trailSymbol, lastLevel]
  | succ n ih =>
    intro l
    rw [framesSegments, lastLevel_append]
    exact ih _

/-- SEND as one step keeps the invariant. -/
theorem inv_send {s : State} (h : Inv s) (r : Nat) : Inv (respond .ok 0
    { emit (sendTrace (payloadOf s.cw) r) s with txBusy := false, tx := idleTx }) := by
  obtain ⟨hin, hres, -, -, hdec⟩ := inv_iff.mp h
  refine inv_iff.mpr ⟨hin, hres, by simp, ?_, hdec⟩
  rw [respond_irOut, emit_irOut, sendTrace, lastLevel_frames]
  exact encoderInv_idle rfl (Nat.zero_le _)

/-! ## The step -/

/-- A decoded repeat count has RPT_W bits. -/
theorem decodeOp_send_lt {n : Nat} {w : OpWord} {r : Nat} (h : decodeOp n w = .send r) :
    r < repeatBound n := by
  rcases decodeOp_cases n w with ⟨-, e⟩ | ⟨-, e⟩ | ⟨-, e⟩ | ⟨-, e⟩ | ⟨-, e⟩ | ⟨-, e⟩ | ⟨-, e⟩ |
    ⟨-, e⟩ | ⟨-, e⟩ <;> rw [e] at h <;> cases h
  exact Nat.mod_lt _ (Nat.two_pow_pos _)

/-- An operation word run whole keeps the invariant. -/
theorem inv_exec {s t : State} (h : Inv s) {i : Instr} (hi : ¬ OnWire i)
    (ht : exec i s = .next t) : Inv t := by
  have hparts := inv_iff.mp h
  obtain ⟨p, e⟩ | ⟨-, c, p, e⟩ | ⟨hw, -⟩ | ⟨r, -, e⟩ | ⟨rfl, -⟩ := exec_cases i s
  · cases e.symm.trans ht; exact inv_iff.mpr hparts
  · cases e.symm.trans ht; exact inv_iff.mpr hparts
  · exact absurd hw hi
  · cases e.symm.trans ht
    exact inv_send h r
  · cases (exec_decode s).symm.trans ht
    exact inv_finishDecode h (decodeBuffer_endsSane _ _ _)

/-- Acceptance of an operation word keeps the invariant, at both levels. -/
theorem inv_acceptOp {s t : State} (h : Inv s) (hb : s.busy = false) {w : OpWord}
    (ht : acceptOp (decodeOp s.par.rptW w) s = .next t) : Inv t := by
  obtain ⟨htx, hdec⟩ := Bool.or_eq_false_iff.mp hb
  obtain e | ⟨r, hr, e⟩ | ⟨-, e⟩ := acceptOp_cases (decodeOp s.par.rptW w) s <;> rw [e] at ht
  · exact inv_exec h (not_onWire_decodeOp _ w) ht
  · cases ht
    exact inv_startSend h hdec (decodeOp_send_lt hr)
  · cases ht
    exact inv_startDecode h htx

theorem inv_noResponse {s : State} (h : Inv s) (hs : List OpWord) :
    Inv (noResponse { s with host := hs }) :=
  inv_iff.mpr (inv_iff (s := s).mp h)

/-- Each of the five things the codec can do in a step keeps the invariant. -/
theorem inv_codecStep {s t : State} (h : Inv s) (ht : codecStep s = .next t) : Inv t := by
  obtain ⟨hin, -⟩ := inv_iff.mp h
  cases hr : s.rst with
  | true => cases (codecStep_rst hr).symm.trans ht; exact inv_resetCodec hin
  | false =>
  cases htx : s.txBusy with
  | true => cases (codecStep_tx hr htx).symm.trans ht; exact inv_stepSend h htx
  | false =>
  cases hdec : s.decBusy with
  | true =>
    cases (codecStep_dec hr htx hdec).symm.trans ht
    exact inv_advanceDecode (inv_noResponse h s.host) hdec
  | false =>
  have hb : s.busy = false := by simp [State.busy, htx, hdec]
  cases hh : s.host with
  | nil => cases (codecStep_idle hr hb hh).symm.trans ht; exact inv_noResponse h s.host
  | cons w rest =>
    rw [codecStep_accept hr hb hh] at ht
    exact inv_acceptOp (inv_noResponse h rest) hb ht

end Sys2Proof

namespace Sys2Proof.Machine

/-! ## The response ports (10_state.md R29, 60_exceptions.md R201) -/

theorem statusCode_ne_three (st : Status) : statusCode st ≠ 3 := by
  cases st <;> decide

theorem ports_of_response {s : State} {r : Response} (h : s.rsp = some r) :
    s.rspValid = true ∧ s.rspStatus = statusCode r.status ∧ s.opRdata = r.rdata := by
  simp [State.rspValid, State.rspStatus, State.opRdata, h]

theorem ports_of_no_response {s : State} (h : s.rsp = none) :
    s.rspValid = false ∧ s.rspStatus = 0 := by
  simp [State.rspValid, State.rspStatus, h]

/-! ## The obligations -/

/-- Settles O56: the codec's step keeps the invariant, and so does the agents' move after it. -/
theorem everyStepKeepsTheInvariant : Obligations.EveryStepKeepsTheInvariant := by
  intro s t hs ht
  obtain ⟨u, hu, rfl⟩ := step_eq_next ht
  exact inv_agentsMove (inv_codecStep hs hu)

/-- Settles O15, from the slices of a packed word (`extractLsb'_packCommand`). -/
theorem commandWordFieldsLieWhereTheTablePutsThem :
    Obligations.CommandWordFieldsLieWhereTheTablePutsThem := by
  refine ⟨packCommand_unpackCommand, unpackCommand_packCommand, fun c => ?_⟩
  obtain ⟨htc, htf, -, hpwr, hunits, hflow, -⟩ := extractLsb'_packCommand c
  simp only [readField_setWidth, fieldShift, fieldWidth, htc, htf, hpwr, hunits, hflow, and_self]

/-- Settles O36: only DECODE reads working registers, and it overwrites them first; SEND writes its own,
and every other instruction leaves both as they are. -/
theorem workingRegistersNeverReachAResult : Obligations.WorkingRegistersNeverReachAResult := by
  intro i s d x
  cases i with
  | decode => exact exec_decode_withWorking s d x
  | send r => exact ⟨_, d, idleTx, rfl, rfl⟩
  | frd f => cases f <;> exact ⟨_, d, x, rfl, rfl⟩
  | fwr f v => cases f <;> exact ⟨_, d, x, rfl, rfl⟩
  | rrd q => cases q <;> exact ⟨_, d, x, rfl, rfl⟩
  | _ => exact ⟨_, d, x, rfl, rfl⟩

/-- Settles O1: each register is read off `State.reset`, each field off its CW. -/
theorem resetStateHoldsTheSpecifiedValues : Obligations.ResetStateHoldsTheSpecifiedValues := by
  unfold Obligations.ResetStateHoldsTheSpecifiedValues
  decide

/-- Settles O3: the step is the codec's reset, and the agents' move after it reaches inputs only. -/
theorem resetTakesEveryRegisterToItsResetValue :
    Obligations.ResetTakesEveryRegisterToItsResetValue := by
  intro s hr
  refine ⟨_, step_of_codecStep (codecStep_rst hr), ?_⟩
  have hhost : s.agents = [] → (agentsMove (resetCodec s)).host = s.host := fun ha => by
    rw [agentsMove_nil (s := resetCodec s) ha, resetCodec_host]
  obtain ⟨_, _, _, _, _, _, _, e⟩ := agentsMove_codec (resetCodec s)
  rw [e] at hhost ⊢
  exact ⟨rfl, rfl, rfl, rfl, rfl, rfl, rfl, rfl, rfl, hhost⟩

/-- Settles O42: the ports are the parts of the response, and the number of no status is 3. -/
theorem responsePortsShowTheResponse : Obligations.ResponsePortsShowTheResponse := by
  intro s
  have hstatus : s.rspStatus ≠ 3 := by
    cases h : s.rsp with
    | none => simp [(ports_of_no_response h).2]
    | some r =>
      obtain ⟨-, hst, -⟩ := ports_of_response h
      rw [hst]
      exact statusCode_ne_three r.status
  exact ⟨hstatus, rfl, fun _ => ports_of_response, fun _ => ports_of_response,
    fun _ => ports_of_response, fun h => (ports_of_no_response h).1⟩

/-- Settles O55: the reset state is what resetting it leaves. -/
theorem invariantHoldsAtReset : Obligations.InvariantHoldsAtReset :=
  inv_resetCodec (s := State.reset) inputsInv_reset

end Sys2Proof.Machine
end


section
/-! The statements of the memory (20_memory.md): the buffer by what it reads, the capture of a SEND,
what a DECODE reads of the buffer, and the last of the frames in it. -/

namespace Sys2Proof.Machine

/-! ## The buffer by what it reads (20_memory.md R50) -/

/-- Nothing before the first entry of a capture is listed. -/
theorem Memory.read_ofEntries_below (es : List Nat) : ∀ {i j : Nat}, j < i →
    (Memory.ofEntries i es).read j = unlistedEntry := by
  induction es with
  | nil => exact fun _ => rfl
  | cons d rest ih =>
    intro i j h
    have hrest := ih (Nat.lt_succ_of_lt h)
    unfold Memory.ofEntries
    split
    · exact hrest
    · rw [Memory.read_cons, if_neg h.ne', hrest]

/-- A capture that begins at index `i` reads back entry by entry. -/
theorem Memory.read_ofEntries (es : List Nat) : ∀ i j : Nat,
    (Memory.ofEntries i es).read (i + j) = es.getD j unlistedEntry := by
  induction es with
  | nil => exact fun _ _ => rfl
  | cons d rest ih =>
    intro i j
    unfold Memory.ofEntries
    cases j with
    | zero =>
      rw [Nat.add_zero i, List.getD_cons_zero]
      split
      · next hd => rw [Memory.read_ofEntries_below rest (Nat.lt_add_one i), hd]
      · rw [Memory.read_cons, if_pos rfl]
    | succ j =>
      have hrest : (Memory.ofEntries (i + 1) rest).read (i + (j + 1)) =
          rest.getD j unlistedEntry := by
        rw [← ih (i + 1) j, Nat.add_right_comm, Nat.add_assoc]
      split
      · exact hrest
      · rw [Memory.read_cons, if_neg (by omega)]
        exact hrest

/-- The first cell of a buffer in form: its entry differs from what an unlisted index reads as, and the
form holds from its own index on. -/
theorem Memory.wfFrom_head {p : Params} {lo k d : Nat} {rest : Memory}
    (h : Memory.wfFrom p lo ((k, d) :: rest) = true) :
    d ≠ unlistedEntry ∧ Memory.wfFrom p k ((k, d) :: rest) = true := by
  simp only [Memory.wfFrom, Bool.and_eq_true, decide_eq_true_eq] at h ⊢
  obtain ⟨⟨⟨⟨-, hk⟩, hd⟩, hne⟩, hrest⟩ := h
  exact ⟨hne, ⟨⟨⟨le_rfl, hk⟩, hd⟩, hne⟩, hrest⟩

/-- A listed index is at or above the least one. -/
theorem Memory.le_of_read_ne {p : Params} {m : Memory} {lo i : Nat} (hm : m.wfFrom p lo = true)
    (h : m.read i ≠ unlistedEntry) : lo ≤ i :=
  Nat.le_of_not_lt fun hi => h (Memory.read_below hi hm)

/-- A buffer that reads like one with a first cell at `k` begins at or below `k`. -/
theorem Memory.head_le_of_read_eq {p : Params} {lo lo' k d l e : Nat} {rest rest' : Memory}
    (ha : Memory.wfFrom p lo ((k, d) :: rest) = true)
    (hb : Memory.wfFrom p lo' ((l, e) :: rest') = true)
    (h : Memory.read ((k, d) :: rest) k = Memory.read ((l, e) :: rest') k) : l ≤ k := by
  apply Memory.le_of_read_ne (Memory.wfFrom_head hb).2
  rw [← h, Memory.read_cons, if_pos rfl]
  exact (Memory.wfFrom_head ha).1

/-- A buffer in form that lists nothing has no cells. -/
theorem Memory.eq_nil_of_read {p : Params} {m : Memory} {lo : Nat} (hm : m.wfFrom p lo = true)
    (h : ∀ i, m.read i = unlistedEntry) : m = [] := by
  cases m with
  | nil => rfl
  | cons c rest =>
    have hk := h c.1
    rw [Memory.read_cons, if_pos rfl] at hk
    exact absurd hk (Memory.wfFrom_head hm).1

/-- Two buffers in form that read alike are equal, cell by cell. -/
theorem Memory.eq_of_read_eq {p : Params} (a : Memory) : ∀ {b : Memory} {lo lo' : Nat},
    a.wfFrom p lo = true → b.wfFrom p lo' = true → (∀ i, a.read i = b.read i) → a = b := by
  induction a with
  | nil => exact fun _ hb h => (Memory.eq_nil_of_read hb fun i => (h i).symm).symm
  | cons c rest ih =>
    obtain ⟨k, d⟩ := c
    intro b lo lo' ha hb h
    cases b with
    | nil => exact Memory.eq_nil_of_read ha h
    | cons c' rest' =>
      obtain ⟨l, e⟩ := c'
      obtain rfl : l = k :=
        le_antisymm (Memory.head_le_of_read_eq ha hb (h k))
          (Memory.head_le_of_read_eq hb ha (h l).symm)
      have hta := Memory.wfFrom_tail ha
      have htb := Memory.wfFrom_tail hb
      have hde : d = e := by simpa using h l
      have hrest : rest = rest' := ih hta htb fun i => by
        by_cases hi : l = i
        · have hlt : i < l + 1 := hi ▸ Nat.lt_succ_self l
          rw [Memory.read_below hlt hta, Memory.read_below hlt htb]
        · simpa [hi] using h i
      rw [hde, hrest]

/-! ## The capture of a SEND (20_memory.md R53, R54) -/

/-- The first of these segments, if there is one, is a mark. -/
def OpensWithMark (segs : List Segment) : Prop := ∀ g, segs.head? = some g → g.level = true

theorem opensWithMark_cons (d : Nat) (segs : List Segment) : OpensWithMark (⟨true, d⟩ :: segs) :=
  fun _ h => by cases h; rfl

/-- Merging keeps the level of the first segment. -/
theorem OpensWithMark.mergeSegments {segs : List Segment} (h : OpensWithMark segs) :
    OpensWithMark (mergeSegments segs) := by
  cases segs with
  | nil => exact h
  | cons g rest =>
    have hg : g.level = true := h g rfl
    unfold Machine.mergeSegments
    intro k hk
    split at hk
    · cases hk; exact hg
    · split at hk <;> (cases hk; exact hg)

theorem OpensWithMark.dropLeadingSpace {segs : List Segment} (h : OpensWithMark segs) :
    dropLeadingSpace segs = segs := by
  cases segs with
  | nil => rfl
  | cons g rest => rw [Machine.dropLeadingSpace, if_pos (h g rfl)]

/-- A segment whose level the next one does not share stays as it is. -/
theorem mergeSegments_cons {g : Segment} {rest : List Segment}
    (h : ∀ k, (mergeSegments rest).head? = some k → g.level ≠ k.level) :
    mergeSegments (g :: rest) = g :: mergeSegments rest := by
  rw [mergeSegments]
  split
  · next hr => rw [hr]
  · next k more hr => rw [if_neg (h k (by rw [hr]; rfl)), hr]

/-- A space before a mark stays as it is. -/
theorem mergeSegments_space {rest : List Segment} (h : OpensWithMark rest) (b : Nat) :
    mergeSegments (⟨false, b⟩ :: rest) = ⟨false, b⟩ :: mergeSegments rest :=
  mergeSegments_cons fun k hk => by simp [h.mergeSegments k hk]

/-- A mark and the space after it stay as they are before another mark. -/
theorem mergeSegments_mark_space {rest : List Segment} (h : OpensWithMark rest) (a b : Nat) :
    mergeSegments (⟨true, a⟩ :: ⟨false, b⟩ :: rest) =
      ⟨true, a⟩ :: ⟨false, b⟩ :: mergeSegments rest := by
  rw [← mergeSegments_space h]
  exact mergeSegments_cons fun k hk => by
    rw [mergeSegments_space h] at hk
    cases hk
    exact Bool.noConfusion

/-- Two spaces after a mark become one (20_memory.md R54 (1)). -/
theorem mergeSegments_mark_space_space {rest : List Segment} (h : OpensWithMark rest) (a b c : Nat) :
    mergeSegments (⟨true, a⟩ :: ⟨false, b⟩ :: ⟨false, c⟩ :: rest) =
      ⟨true, a⟩ :: ⟨false, b + c⟩ :: mergeSegments rest := by
  have hspaces : mergeSegments (⟨false, b⟩ :: ⟨false, c⟩ :: rest) =
      ⟨false, b + c⟩ :: mergeSegments rest := by
    rw [mergeSegments, mergeSegments_space h]
    rfl
  rw [← hspaces]
  exact mergeSegments_cons fun k hk => by
    rw [hspaces] at hk
    cases hk
    exact Bool.noConfusion

/-- The mark that carries a bit (30_encoding.md R73). -/
def markOf (b : Bool) : Nat := if b then 2400 else 720

/-- What a capture holds of the data bits k to 0 and the end of the frame (20_memory.md R53). -/
def capturedBits (p : Payload) (k : Nat) : List Nat :=
  (List.range k).flatMap (fun j => [markOf (p.getLsbD (k - j)), 840]) ++
    [markOf (p.getLsbD 0), 2700]

theorem capturedBits_succ (p : Payload) (k : Nat) :
    capturedBits p (k + 1) = markOf (p.getLsbD (k + 1)) :: 840 :: capturedBits p k := by
  simp [capturedBits, List.range_succ_eq_map, List.flatMap_map]

/-- What a capture holds of one frame (20_memory.md R53). -/
def capturedFrame (p : Payload) : List Nat := 7000 :: 4000 :: capturedBits p 39

/-- The data bits and TRAIL, captured: the last BIT_SPACE and TRAIL become one space. -/
theorem mergeSegments_data (p : Payload) {rest : List Segment} (h : OpensWithMark rest) (k : Nat) :
    (mergeSegments (dataSegments (k + 1) p ++ (trailSymbol ++ rest))).map (·.dur) =
      capturedBits p k ++ (mergeSegments rest).map (·.dur) := by
  induction k with
  | zero => exact congrArg _ (mergeSegments_mark_space_space h (markOf (p.getLsbD 0)) 840 1860)
  | succ k ih =>
    have hmark : OpensWithMark (dataSegments (k + 1) p ++ (trailSymbol ++ rest)) :=
      opensWithMark_cons _ _
    have hbit := mergeSegments_mark_space hmark (markOf (p.getLsbD (k + 1))) 840
    rw [capturedBits_succ, List.cons_append, List.cons_append, ← ih]
    exact congrArg (List.map (·.dur)) hbit

theorem opensWithMark_frames (p : Payload) (n : Nat) : OpensWithMark (framesSegments n p) := by
  cases n with
  | zero => exact fun _ h => by cases h
  | succ n => exact opensWithMark_cons _ _

/-- Frames back to back, captured. -/
theorem mergeSegments_frames (p : Payload) (n : Nat) :
    (mergeSegments (framesSegments n p)).map (·.dur) =
      (List.replicate n (capturedFrame p)).flatten := by
  induction n with
  | zero => rfl
  | succ n ih =>
    have hdata := mergeSegments_data p (opensWithMark_frames p n) 39
    have hmark : OpensWithMark (dataSegments 40 p ++ (trailSymbol ++ framesSegments n p)) :=
      opensWithMark_cons _ _
    have hsegs : framesSegments (n + 1) p = ⟨true, 7000⟩ :: ⟨false, 4000⟩ ::
        (dataSegments 40 p ++ (trailSymbol ++ framesSegments n p)) := by
      rw [framesSegments, frameSegments, List.append_assoc, List.append_assoc]
      rfl
    rw [hsegs, mergeSegments_mark_space hmark, List.map_cons, List.map_cons, hdata, ih,
      List.replicate_succ, List.flatten_cons]
    rfl

/-- No entry of a frame is longer than its header mark. -/
theorem le_of_mem_capturedFrame {p : Payload} {d : Nat} (h : d ∈ capturedFrame p) : d ≤ 7000 := by
  have hmark : ∀ b, markOf b ≤ 7000 := by decide
  simp only [capturedFrame, capturedBits, List.mem_cons, List.mem_append, List.mem_flatMap,
    List.not_mem_nil, or_false] at h
  obtain rfl | rfl | ⟨j, -, rfl | rfl⟩ | rfl | rfl := h
  · exact le_rfl
  · decide
  · exact hmark _
  · decide
  · exact hmark _
  · decide

/-- A duration no longer than the header mark fits an entry of thirteen bits. -/
theorem entryOf_of_le {durW d : Nat} (hw : 13 ≤ durW) (hd : d ≤ 7000) : entryOf durW d = d := by
  have h13 : 2 ^ 13 ≤ 2 ^ durW := Nat.pow_le_pow_right (by decide) hw
  exact min_eq_left (by omega)

/-- The capture of frames back to back: nothing is dropped at the front, and no entry is cut. -/
theorem captureOf_frames {durW : Nat} (hw : 13 ≤ durW) (p : Payload) (n : Nat) :
    captureOf durW (framesSegments n p) = (List.replicate n (capturedFrame p)).flatten := by
  have hfits : ∀ d ∈ (List.replicate n (capturedFrame p)).flatten, entryOf durW d = d := by
    intro d hd
    obtain ⟨l, hl, hdl⟩ := List.mem_flatten.mp hd
    rw [List.eq_of_mem_replicate hl] at hdl
    exact entryOf_of_le hw (le_of_mem_capturedFrame hdl)
  calc captureOf durW (framesSegments n p)
      = ((mergeSegments (framesSegments n p)).map (·.dur)).map (entryOf durW) := by
        rw [captureOf, (opensWithMark_frames p n).mergeSegments.dropLeadingSpace, List.map_map]
        rfl
    _ = ((List.replicate n (capturedFrame p)).flatten).map (entryOf durW) := by
        rw [mergeSegments_frames]
    _ = (List.replicate n (capturedFrame p)).flatten :=
        (List.map_congr_left hfits).trans (List.map_id' _)

/-! ## What a DECODE reads (20_memory.md R59, 42_decoder.md R158) -/

/-- A reading of the second header's entries that looks at the bound first is the same in two buffers
that agree below it. -/
theorem absent_congr {a b : Memory} {w : DecWork} (h : agreeBelow w.lenQ a b) (tol i n : Nat) :
    (pastEnd w i || !matchDur tol (a.read i) n) = (pastEnd w i || !matchDur tol (b.read i) n) := by
  cases hp : pastEnd w i with
  | true => rfl
  | false => rw [h i (pastEnd_eq_false.mp hp)]

/-- The bit loop reads only below LEN_Q. -/
theorem decodeLoop_congr {a b : Memory} (tol n : Nat) : ∀ {w : DecWork}, agreeBelow w.lenQ a b →
    decodeLoop tol a n w = decodeLoop tol b n w := by
  induction n with
  | zero => exact fun _ => rfl
  | succ n ih =>
    intro w h
    cases hb : budgetSpent w with
    | true => rw [decodeLoop_spent hb, decodeLoop_spent hb]
    | false =>
    cases hp : pastEnd w w.offset with
    | true => rw [decodeLoop_noMark hb hp, decodeLoop_noMark hb hp]
    | false =>
    have hmark := h _ (pastEnd_eq_false.mp hp)
    cases hm : classifyMark tol (b.read w.offset) with
    | none => rw [decodeLoop_badMark hb hp (hmark ▸ hm), decodeLoop_badMark hb hp hm]
    | some bit =>
    have hheader : agreeBelow (discardBits (pushBit bit w)).lenQ a b := h
    have hone := ih (w := advance 1 (pushBit bit w)) h
    have hthree := ih (w := advance 3 (discardBits (pushBit bit w))) h
    simp only [decodeLoop, hb, hp, hmark, hm, absent_congr hheader, hone, hthree,
      Bool.false_eq_true, if_false]
    cases hp1 : pastEnd (pushBit bit w) (pushBit bit w).offset with
    | true => rfl
    | false => rw [h _ (pastEnd_eq_false.mp hp1)]

/-- So does the whole of DECODE: the header is read only once the length is known to be enough. -/
theorem decodeBuffer_congr {a b : Memory} {w : DecWork} (tol : Nat) (h : agreeBelow w.lenQ a b) :
    decodeBuffer tol a w = decodeBuffer tol b w := by
  by_cases hlen : w.lenQ < Config.minLen
  · simp only [decodeBuffer, hlen, if_true]
  · have h82 : 82 ≤ w.lenQ := Nat.le_of_not_lt hlen
    simp only [decodeBuffer, h 0 (by omega), h 1 (by omega),
      decodeLoop_congr tol _ (w := advance 1 (advance 1 (initWork w))) h]

/-- The end of a DECODE neither reads nor writes the buffer. -/
theorem finishDecode_buf (e : DecodeEnd) (s : State) (m : Memory) :
    finishDecode e { s with buf := m } = { finishDecode e s with buf := m } := by
  cases e <;> rfl

/-! ## The bit loop over well-formed frames (42_decoder.md R159 to R169) -/

/-- A mark in the window of its bit's nominal reads as that bit (00_scope.md R9). -/
theorem classifyMark_of_matchDur {tol m : Nat} (ht : tol ≤ 50) {b : Bool}
    (h : matchDur tol m (if b then 2400 else 720) = true) : classifyMark tol m = some b := by
  cases b with
  | false => exact if_pos h
  | true => exact (if_neg fun h720 => matchDur_disjoint ht (by decide) ⟨h720, h⟩).trans (if_pos h)

theorem classifySpace_gap {tol d : Nat} (h : matchDur tol d 2700 = true) :
    classifySpace tol d = some true :=
  if_pos h

theorem classifySpace_bitSpace {tol d : Nat} (ht : tol ≤ 50) (h : matchDur tol d 840 = true) :
    classifySpace tol d = some false :=
  (if_neg fun hgap => matchDur_disjoint ht (by decide) ⟨h, hgap⟩).trans (if_pos h)

/-- The first k bits of a payload, as ACC holds them (10_state.md R31). -/
def firstBits (p : Payload) (k : Nat) : Word64 := (p >>> (40 - k)).setWidth 64

theorem firstBits_zero (p : Payload) : firstBits p 0 = 0 := by
  rw [firstBits, BitVec.ushiftRight_eq_zero (by decide)]
  rfl

theorem firstBits_all (p : Payload) : firstBits p 40 = p.setWidth 64 := by
  rw [firstBits, BitVec.ushiftRight_zero]

/-- The next bit enters at ACC[0] (42_decoder.md R159). -/
theorem firstBits_succ (p : Payload) {k : Nat} (hk : k < 40) :
    (firstBits p k <<< 1) ||| (if p.getLsbD (39 - k) then 1 else 0) = firstBits p (k + 1) := by
  have hbit : ∀ (b : Bool) (i : Nat),
      (if b then 1 else 0 : Word64).getLsbD i = (b && decide (i = 0)) := by
    intro b i
    cases b <;> simp [BitVec.getLsbD_one]
  apply BitVec.eq_of_getLsbD_eq
  intro i hi
  simp only [firstBits, BitVec.getLsbD_or, BitVec.getLsbD_shiftLeft, BitVec.getLsbD_setWidth,
    BitVec.getLsbD_ushiftRight, hbit, hi, decide_true, Bool.true_and]
  cases i with
  | zero => simp [show 40 - (k + 1) = 39 - k by omega]
  | succ i =>
    have hi' : i < 64 := by omega
    have hshift : 40 - k + i = 40 - (k + 1) + (i + 1) := by omega
    simp [hi', hshift]

/-- The working registers at data mark k of a frame of payload `p` with its header mark at `b`, the
sampled inputs and MAXBITS those of `w` (42_decoder.md R159). -/
def atMark (w : DecWork) (b : Nat) (p : Payload) (k : Nat) : DecWork :=
  { w with offset := b + 2 + 2 * k, acc := firstBits p k, nbits := BitVec.ofNat 7 k }

/-- The same behind that mark, its bit counted. -/
def behindMark (w : DecWork) (b : Nat) (p : Payload) (k : Nat) : DecWork :=
  { w with offset := b + 3 + 2 * k, acc := firstBits p (k + 1), nbits := BitVec.ofNat 7 (k + 1) }

/-- Counting the bit of mark k. -/
theorem pushBit_atMark (w : DecWork) (b : Nat) (p : Payload) {k : Nat} (hk : k < 40) :
    pushBit (p.getLsbD (39 - k)) (atMark w b p k) = behindMark w b p k := by
  have hoff : b + 2 + 2 * k + 1 = b + 3 + 2 * k := by omega
  simp only [pushBit, atMark, behindMark, firstBits_succ p hk, hoff, BitVec.ofNat_add]
  rfl

/-- The space behind mark k leads to the next one. -/
theorem advance_behindMark (w : DecWork) (b : Nat) (p : Payload) (k : Nat) :
    advance 1 (behindMark w b p k) = atMark w b p (k + 1) := by
  have hoff : b + 3 + 2 * k + 1 = b + 2 + 2 * (k + 1) := by omega
  simp only [advance, behindMark, atMark, hoff]

/-- Behind the last mark, the second header and no bits: the first mark of the next frame. -/
theorem advance_discardBits_behindMark (w : DecWork) (b : Nat) (p q : Payload) :
    advance 3 (discardBits (behindMark w b p 39)) = atMark w (b + 82) q 0 := by
  simp only [advance, discardBits, behindMark, atMark, firstBits_zero]
  rfl

/-- NBITS does not wrap within a frame. -/
theorem toNat_nbits {k : Nat} (hk : k ≤ 40) : (BitVec.ofNat 7 k).toNat = k := by
  rw [BitVec.toNat_ofNat, Nat.mod_eq_of_lt (by omega)]

/-- The decode ends cleanly behind mark k exactly if it is the last one and nothing but the closing
space is left (42_decoder.md R162). -/
theorem cleanEnd_behindMark {w : DecWork} {b : Nat} {p : Payload} {k : Nat} (hk : k < 40) :
    cleanEnd (behindMark w b p k) = true ↔ k = 39 ∧ w.lenQ ≤ b + 82 := by
  have hbits : BitVec.ofNat 7 (k + 1) = 40 ↔ k = 39 := by
    rw [← BitVec.toNat_inj, toNat_nbits (by omega), show (40 : BitVec 7).toNat = 40 from rfl]
    omega
  have hend : w.lenQ ≤ b + 3 + 2 * k + 1 ↔ w.lenQ ≤ b + 4 + 2 * k := by omega
  rw [cleanEnd, Bool.and_eq_true, pastEnd, decide_eq_true_eq, decide_eq_true_eq]
  exact (and_congr hbits hend).trans (and_congr_right fun hk => by rw [hk])

/-- The header of a buffer that begins with a frame leads to its first data mark
(42_decoder.md R152 to R157). -/
theorem decodeBuffer_header {tol : Nat} {buf : Memory} {w : DecWork} {p : Payload}
    (hovf : w.ovfQ = false) (hlen : 82 ≤ w.lenQ) (hf : FrameAt tol buf 0 p) :
    decodeBuffer tol buf w = decodeLoop tol buf (w.lenQ / 2 + 1) (atMark (initWork w) 0 p 0) := by
  have hmark : matchDur tol (buf.read 0) Config.hdrMark = true := hf.hdrMark
  have hspace : matchDur tol (buf.read 1) Config.hdrSpace = true := hf.hdrSpace
  have hlong : ¬ w.lenQ < Config.minLen := Nat.not_lt_of_le hlen
  have hwork : advance 1 (advance 1 (initWork w)) = atMark (initWork w) 0 p 0 := by
    rw [atMark, firstBits_zero]
    rfl
  simp only [decodeBuffer, hovf, hlong, hmark, hspace, hwork, Bool.not_true, Bool.false_eq_true,
    if_false]

/-- From 82 entries on the bit budget has room for a frame (42_decoder.md R155). -/
theorem bitBudget_ge {len : Nat} (h : 82 ≤ len) : 40 ≤ (bitBudget len).toNat := by
  simp only [bitBudget, Config.accWidth, BitVec.toNat_ofNat]
  omega

section
variable {tol : Nat} {buf : Memory} {w : DecWork} {b : Nat} {p : Payload}
  (ht : tol ≤ 50) (hf : FrameAt tol buf b p) (hmax : 40 ≤ w.maxBits.toNat)
  (hlen : b + 81 ≤ w.lenQ)

include hmax in
theorem budgetSpent_atMark {k : Nat} (hk : k < 40) : budgetSpent (atMark w b p k) = false :=
  budgetSpent_eq_false.mpr ((toNat_nbits hk.le).trans_lt (hk.trans_le hmax))

include hlen in
theorem pastEnd_atMark {k : Nat} (hk : k < 40) :
    pastEnd (atMark w b p k) (atMark w b p k).offset = false :=
  pastEnd_eq_false.mpr (show b + 2 + 2 * k < w.lenQ by omega)

theorem pastEnd_behindMark {k i : Nat} (h : i < w.lenQ) : pastEnd (behindMark w b p k) i = false :=
  pastEnd_eq_false.mpr h

include ht hf in
theorem classifyMark_atMark {k : Nat} (hk : k < 40) :
    classifyMark tol (buf.read (atMark w b p k).offset) = some (p.getLsbD (39 - k)) :=
  classifyMark_of_matchDur ht (hf.marks k hk)

include ht hf hmax hlen

/-- A pass over one of the first 39 bits and the space behind it (42_decoder.md R165). -/
theorem decodeLoop_bit {k : Nat} (hk : k < 39) (n : Nat) :
    decodeLoop tol buf (n + 1) (atMark w b p k) = decodeLoop tol buf n (atMark w b p (k + 1)) := by
  have hk40 : k < 40 := hk.trans (by decide)
  have hpush := pushBit_atMark w b p hk40
  have hgoes : cleanEnd (behindMark w b p k) = false := by
    rw [Bool.eq_false_iff, Ne, cleanEnd_behindMark hk40]
    omega
  have hin : pastEnd (behindMark w b p k) (behindMark w b p k).offset = false :=
    pastEnd_behindMark (show b + 3 + 2 * k < w.lenQ by omega)
  have hspace : classifySpace tol (buf.read (behindMark w b p k).offset) = some false :=
    classifySpace_bitSpace ht (hf.spaces k hk)
  rw [← hpush] at hgoes hin hspace
  rw [decodeLoop_interBit (budgetSpent_atMark hmax hk40) (pastEnd_atMark hlen hk40)
    (classifyMark_atMark ht hf hk40) hgoes hin hspace, hpush, advance_behindMark]

/-- The passes from the first data mark of a frame to mark k. -/
theorem decodeLoop_bits {k : Nat} (hk : k < 40) (n : Nat) :
    decodeLoop tol buf (n + k) (atMark w b p 0) = decodeLoop tol buf n (atMark w b p k) := by
  induction k generalizing n with
  | zero => rfl
  | succ k ih =>
    rw [← Nat.add_assoc, Nat.add_right_comm, ih (Nat.lt_of_succ_lt hk),
      decodeLoop_bit ht hf hmax hlen (Nat.lt_of_succ_lt_succ hk)]

/-- The forty passes over a frame with another one behind it (42_decoder.md R164). -/
theorem decodeLoop_frame {q : Payload} (hgap : matchDur tol (buf.read (b + 81)) 2700 = true)
    (hf' : FrameAt tol buf (b + 82) q) (hlen' : b + 82 + 81 ≤ w.lenQ) (n : Nat) :
    decodeLoop tol buf (n + 40) (atMark w b p 0) = decodeLoop tol buf n (atMark w (b + 82) q 0) := by
  have hpush := pushBit_atMark w b p (k := 39) (by decide)
  have hgoes : cleanEnd (behindMark w b p 39) = false := by
    rw [Bool.eq_false_iff, Ne, cleanEnd_behindMark (by decide)]
    omega
  rw [show n + 40 = n + 1 + 39 from rfl, decodeLoop_bits ht hf hmax hlen (by decide),
    decodeLoop_boundary (budgetSpent_atMark hmax (by decide)) (pastEnd_atMark hlen (by decide))
      (classifyMark_atMark ht hf (by decide)) (b := p.getLsbD (39 - 39)), hpush,
    advance_discardBits_behindMark w b p q]
  all_goals rw [hpush]
  · exact hgoes
  · exact pastEnd_behindMark (show b + 81 < w.lenQ by omega)
  · exact classifySpace_gap hgap
  · exact pastEnd_behindMark (show b + 82 < w.lenQ by omega)
  · exact hf'.hdrMark
  · exact pastEnd_behindMark (show b + 83 < w.lenQ by omega)
  · exact hf'.hdrSpace

/-- The forty passes over a frame with nothing behind it but its closing space, if that
(42_decoder.md R162). -/
theorem decodeLoop_lastFrame (hend : w.lenQ ≤ b + 82) (n : Nat) :
    decodeLoop tol buf (n + 40) (atMark w b p 0) = (.success, behindMark w b p 39) := by
  have hpush := pushBit_atMark w b p (k := 39) (by decide)
  have hclean := (cleanEnd_behindMark (p := p) (by decide)).mpr ⟨rfl, hend⟩
  rw [← hpush] at hclean
  rw [show n + 40 = n + 1 + 39 from rfl, decodeLoop_bits ht hf hmax hlen (by decide),
    decodeLoop_clean (budgetSpent_atMark hmax (by decide)) (pastEnd_atMark hlen (by decide))
      (classifyMark_atMark ht hf (by decide)) hclean, hpush]

end

/-- n + 1 frames back to back, every closing space but the last a repeat boundary, and nothing behind
the last but its closing space, if that (20_memory.md R53). -/
structure FramesIn (tol : Nat) (buf : Memory) (len n : Nat) (p : Nat → Payload) : Prop where
  length : len = 82 * (n + 1) ∨ len = 82 * (n + 1) - 1
  frames : ∀ f, f ≤ n → FrameAt tol buf (82 * f) (p f)
  gaps   : ∀ f, f < n → matchDur tol (buf.read (82 * f + 81)) 2700 = true

/-- The passes over all frames before frame f. -/
theorem decodeLoop_frames {tol : Nat} {buf : Memory} {w : DecWork} {n : Nat} {p : Nat → Payload}
    (ht : tol ≤ 50) (h : FramesIn tol buf w.lenQ n p) (hmax : 40 ≤ w.maxBits.toNat) {f : Nat}
    (hfn : f ≤ n) (m : Nat) :
    decodeLoop tol buf (m + 40 * f) (atMark w 0 (p 0) 0) =
      decodeLoop tol buf m (atMark w (82 * f) (p f) 0) := by
  have hlen := h.length
  induction f generalizing m with
  | zero => rfl
  | succ f ih =>
    have hf' := h.frames (f + 1) hfn
    rw [Nat.mul_succ] at hf'
    have hle := Nat.le_of_succ_le hfn
    rw [Nat.mul_succ, Nat.mul_succ, ← Nat.add_assoc, Nat.add_right_comm, ih hle,
      decodeLoop_frame ht (h.frames f hle) hmax (by omega) (h.gaps f hfn) hf' (by omega)]

/-- A DECODE of frames back to back ends in success behind the last mark of the last one. -/
theorem decodeBuffer_frames {tol : Nat} {buf : Memory} {w : DecWork} {n : Nat} {p : Nat → Payload}
    (ht : tol ≤ 50) (hovf : w.ovfQ = false) (hlong : 82 ≤ w.lenQ)
    (h : FramesIn tol buf w.lenQ n p) :
    decodeBuffer tol buf w = (.success, behindMark (initWork w) (82 * n) (p n) 39) := by
  have hlen := h.length
  have hmax : 40 ≤ (initWork w).maxBits.toNat := bitBudget_ge hlong
  have hq : (initWork w).lenQ = w.lenQ := rfl
  obtain ⟨m, hm⟩ : ∃ m, w.lenQ / 2 + 1 = m + 40 + 40 * n :=
    ⟨w.lenQ / 2 + 1 - (40 + 40 * n), by omega⟩
  rw [decodeBuffer_header hovf hlong (h.frames 0 (Nat.zero_le n)), hm,
    decodeLoop_frames ht (w := initWork w) h hmax le_rfl,
    decodeLoop_lastFrame ht (h.frames n le_rfl) hmax (by omega) (by omega)]

/-! ## The obligations -/

/-- Settles O54: a capture reads back (`Memory.read_ofEntries`), and the cells of a buffer in form are
what it lists (`Memory.eq_of_read_eq`). -/
theorem bufferIsDeterminedByWhatItReads : Obligations.BufferIsDeterminedByWhatItReads := by
  refine ⟨fun es j d hj => ?_, fun _ a _ ha hb => Memory.eq_of_read_eq a ha hb⟩
  rw [← Nat.zero_add j, Memory.read_ofEntries, List.getD_eq_getElem?_getD, hj, Option.getD_some]

/-- Settles O24: the frames' segments merge into frame entries (`mergeSegments_frames`), none of which
is cut (`entryOf_of_le`). -/
theorem captureOfASendHasTheFrameLayout : Obligations.CaptureOfASendHasTheFrameLayout :=
  fun _ p r hw => captureOf_frames hw p (r + 1)

/-- Settles O31, from what the bit loop reads (`decodeLoop_congr`). -/
theorem decodeReadsNothingPastTheDeclaredLength :
    Obligations.DecodeReadsNothingPastTheDeclaredLength := by
  intro s m h
  have hrun := decodeBuffer_congr (w := sampleInputs s) s.par.tolPct h
  refine ⟨_, exec_decode s, ?_⟩
  rw [exec_decode, hrun, ← finishDecode_buf]
  rfl

/-- Settles O32: the passes go frame by frame (`decodeBuffer_frames`), and ACC holds the forty bits of
the last one. -/
theorem lastFrameWins : Obligations.LastFrameWins := by
  intro s n p ht hovf hlong hlen hframes hgaps
  have hrun := decodeBuffer_frames (w := sampleInputs s) ht hovf hlong ⟨hlen, hframes, hgaps⟩
  refine ⟨_, exec_decode s, ?_⟩
  rw [hrun]
  refine ⟨rfl, ?_⟩
  have hacc : firstBits (p n) (39 + 1) = (p n).setWidth 64 := firstBits_all (p n)
  simp only [finishDecode, decodeOk_res, behindMark, successResults, hacc]

end Sys2Proof.Machine
end


section
/-! The statements of the encoding (30_encoding.md): decoding and encoding are inverse up to ignored
bits, what is refused, the pseudo-operations, the assembler, and the wire symbols. -/

namespace Sys2Proof

open Machine

/-! ## The data bits of an operand (30_encoding.md R71, R86) -/

theorem mask_sixtyFour : mask 64 = BitVec.allOnes 64 := rfl

/-- Masking keeps the low bits of a word. -/
theorem and_mask (d : Word64) (k : Nat) : d &&& mask k = BitVec.ofNat 64 (d.toNat % 2 ^ k) := by
  rw [← Nat.and_two_pow_sub_one_eq_mod, BitVec.ofNat_and, BitVec.ofNat_toNat, BitVec.setWidth_eq,
    mask]

/-- The two bytes of TWR are data[15:0]. -/
theorem setWidth_bytes (d : Word64) :
    (d.extractLsb' 8 8 ++ d.extractLsb' 0 8).setWidth 64 = d &&& mask 16 := by
  apply BitVec.eq_of_getLsbD_eq
  intro i hi
  rw [BitVec.getLsbD_and, mask_getLsbD 16 i (by decide)]
  simp only [BitVec.getLsbD_setWidth, BitVec.getLsbD_append, BitVec.getLsbD_extractLsb', hi]
  grind

theorem extractLsb'_bytes (tf tc : BitVec 8) :
    ((tf ++ tc).setWidth 64).extractLsb' 8 8 = tf ∧ ((tf ++ tc).setWidth 64).extractLsb' 0 8 = tc := by
  rw [BitVec.extractLsb'_setWidth_of_le (by decide), BitVec.extractLsb'_setWidth_of_le (by decide)]
  exact ⟨BitVec.extractLsb'_append_eq_left, BitVec.extractLsb'_append_eq_right⟩

theorem operandBound_eq (f : FieldName) : f.operandBound = 2 ^ fieldWidth f := by
  cases f <;> rfl

/-- FWR takes as many low data bits as its field has. -/
theorem toNat_fwrValue (f : FieldName) (d : Word64) :
    (fwrValue (.named f) d).toNat = d.toNat % 2 ^ fieldWidth f := by
  cases f with
  | tc | tf => simp [fwrValue, fieldWidth]
  | pwr | units | flow =>
    have hbit : d.toNat % 2 < 256 := by omega
    simpa [fwrValue, fieldWidth] using hbit

theorem setWidth_fwrValue (f : FieldName) (d : Word64) :
    (fwrValue (.named f) d).setWidth 64 = d &&& mask (fieldWidth f) := by
  rw [and_mask, ← toNat_fwrValue, BitVec.ofNat_toNat]

/-- A value that fits its field is the value FWR takes. -/
theorem fwrValue_setWidth {f : FieldName} {v : BitVec 8} (h : v.toNat < f.operandBound) :
    fwrValue (.named f) (v.setWidth 64) = v := by
  apply BitVec.eq_of_toNat_eq
  rw [toNat_fwrValue, BitVec.toNat_setWidth_of_le (by decide), Nat.mod_eq_of_lt]
  rwa [← operandBound_eq]

theorem repeatBound_le (n : Nat) : repeatBound n ≤ 2 ^ 64 :=
  Nat.pow_le_pow_right (by decide) (min_le_right _ _)

/-- The code of the selector that a code stands for (R85). -/
theorem fieldSelectorCode_fieldSelector (k : BitVec 4) :
    fieldSelectorCode (fieldSelector k) = k := by
  obtain ⟨f, rfl, h⟩ | ⟨-, h⟩ := fieldSelector_cases k <;> rw [h] <;> rfl

/-- The code of the selector that a code stands for (R87). -/
theorem resultSelectorCode_resultSelector (k : BitVec 4) :
    resultSelectorCode (resultSelector k) = k := by
  obtain ⟨q, rfl, h⟩ | ⟨-, h⟩ := resultSelector_cases k <;> rw [h] <;> rfl

/-! ## The bits an operation word uses, as parts of the word (30_encoding.md R86) -/

section
variable {n : Nat} {w : OpWord}

/-- CWRD, DECODE and the reserved codes use the operation code alone. -/
theorem usedBits_opcode (h : opcOf w = 0 ∨ opcOf w = 6 ∨ 8 ≤ (opcOf w).toNat) :
    usedBits n w = opWord 15 0 (mask 0) := by
  rw [opcOf] at h
  obtain h | h | h := h
  · rw [usedBits, h]
    rfl
  · rw [usedBits, h]
    rfl
  · unfold usedBits
    split
    case h_12 => rfl
    all_goals omega

/-- FRD and RRD use the selector as well. -/
theorem usedBits_selector (h : opcOf w = 2 ∨ opcOf w = 7) :
    usedBits n w = opWord 15 15 (mask 0) := by
  rw [opcOf] at h
  obtain h | h := h <;> rw [usedBits, h] <;> rfl

theorem usedBits_cwwr (h : opcOf w = 1) : usedBits n w = opWord 15 0 (mask 64) := by
  rw [opcOf] at h
  rw [usedBits, h]
  rfl

theorem usedBits_fwr_named {f : FieldName} (h : opcOf w = 3) (hf : selOf w = fieldCode f) :
    usedBits n w = opWord 15 15 (mask (fieldWidth f)) := by
  rw [opcOf] at h
  rw [selOf] at hf
  rw [usedBits, h, hf]
  cases f <;> rfl

theorem usedBits_fwr_reserved (h : opcOf w = 3) (hk : 5 ≤ (selOf w).toNat) :
    usedBits n w = opWord 15 15 (mask 0) := by
  rw [opcOf] at h
  rw [selOf] at hk
  simp only [usedBits, h]
  split
  case h_8 => rfl
  all_goals simp_all

theorem usedBits_twr (h : opcOf w = 4) : usedBits n w = opWord 15 0 (mask 16) := by
  rw [opcOf] at h
  rw [usedBits, h]
  rfl

/-- An operation code of ones and a data mask, with no selector. -/
theorem opWord_of_data (d : Word64) :
    opWord 15 0 d = 0xF00000000000000000#72 ||| d.setWidth 72 := by
  apply BitVec.eq_of_toNat_eq
  rw [opWord, BitVec.toNat_append, BitVec.toNat_or, BitVec.toNat_setWidth_of_le (by decide)]
  rfl

theorem usedBits_send (h : opcOf w = 5) : usedBits n w = opWord 15 0 (mask (min n 64)) := by
  have hlt : repeatBound n - 1 < 2 ^ 64 := by
    have := repeatBound_le n
    omega
  rw [opcOf] at h
  rw [opWord_of_data, mask, ← repeatBound, BitVec.setWidth_ofNat_of_le_of_lt (by decide) hlt,
    usedBits, h]
  rfl

/-- Masking a word with its used bits masks its selector and its data. -/
theorem and_usedBits {k : BitVec 4} {d : Word64} (h : usedBits n w = opWord 15 k d) :
    w &&& usedBits n w = opWord (opcOf w) (selOf w &&& k) (dataOf w &&& d) := by
  have hopc : opcOf w &&& 15 = opcOf w := BitVec.and_allOnes
  conv_lhs => rw [h, ← opWord_parts w, opWord, opWord, BitVec.and_append, BitVec.and_append, hopc]
  rfl

/-- The same for an operation that uses no selector. -/
theorem and_usedBits_data {d : Word64} (h : usedBits n w = opWord 15 0 d) :
    w &&& usedBits n w = opWord (opcOf w) 0 (dataOf w &&& d) := by
  rw [and_usedBits h]
  exact congrArg (opWord _ · _) BitVec.and_zero

theorem and_usedBits_selector {d : Word64} (h : usedBits n w = opWord 15 15 d) :
    w &&& usedBits n w = opWord (opcOf w) (selOf w) (dataOf w &&& d) := by
  rw [and_usedBits h]
  exact congrArg (opWord _ · _) BitVec.and_allOnes
end

/-! ## Encoding and decoding -/

/-- Encoding what a word decodes to gives its used bits (30_encoding.md R86). -/
theorem encode_decodeOp (n : Nat) (w : OpWord) :
    encode (decodeOp n w) = .op (w &&& usedBits n w) := by
  have hnone : dataOf w &&& mask 0 = 0 := BitVec.and_zero
  rcases decodeOp_cases n w with ⟨h, e⟩ | ⟨h, e⟩ | ⟨h, e⟩ | ⟨h, e⟩ | ⟨h, e⟩ | ⟨h, e⟩ | ⟨h, e⟩ |
    ⟨h, e⟩ | ⟨h, e⟩ <;> rw [e, encode]
  · rw [and_usedBits_data (usedBits_opcode (.inl h)), hnone, h]
  · rw [and_usedBits_data (usedBits_cwwr h), mask_sixtyFour, BitVec.and_allOnes, h]
  · rw [and_usedBits_selector (usedBits_selector (.inl h)), fieldSelectorCode_fieldSelector, hnone, h]
  · rw [fieldSelectorCode_fieldSelector]
    obtain ⟨f, hf, hsel⟩ | ⟨hk, hsel⟩ := fieldSelector_cases (selOf w)
    · rw [and_usedBits_selector (usedBits_fwr_named h hf), hsel, setWidth_fwrValue, h]
    · rw [and_usedBits_selector (usedBits_fwr_reserved h hk), hsel, hnone, h]
      rfl
  · rw [and_usedBits_data (usedBits_twr h), setWidth_bytes, h]
  · rw [and_usedBits_data (usedBits_send h), and_mask, repeatBound, h]
  · rw [and_usedBits_data (usedBits_opcode (.inr (.inl h))), hnone, h]
  · rw [and_usedBits_selector (usedBits_selector (.inr h)), resultSelectorCode_resultSelector, hnone, h]
  · rw [and_usedBits_data (usedBits_opcode (.inr (.inr h))), hnone]

/-- What a word decodes to is well formed. -/
theorem wf_decodeOp (n : Nat) (w : OpWord) : (decodeOp n w).wf n = true := by
  rcases decodeOp_cases n w with ⟨-, e⟩ | ⟨-, e⟩ | ⟨-, e⟩ | ⟨-, e⟩ | ⟨-, e⟩ | ⟨-, e⟩ | ⟨-, e⟩ |
    ⟨-, e⟩ | ⟨h, e⟩ <;> rw [e]
  · rfl
  · rfl
  · obtain ⟨f, -, hsel⟩ | ⟨hk, hsel⟩ := fieldSelector_cases (selOf w) <;> rw [hsel]
    · rfl
    · exact decide_eq_true hk
  · obtain ⟨f, -, hsel⟩ | ⟨hk, hsel⟩ := fieldSelector_cases (selOf w) <;> rw [hsel]
    · apply decide_eq_true
      rw [toNat_fwrValue, operandBound_eq]
      exact Nat.mod_lt _ (Nat.two_pow_pos _)
    · exact Bool.and_eq_true_iff.mpr ⟨decide_eq_true hk, rfl⟩
  · rfl
  · exact decide_eq_true (Nat.mod_lt _ (Nat.two_pow_pos _))
  · rfl
  · obtain ⟨q, -, hsel⟩ | ⟨hk, hsel⟩ := resultSelector_cases (selOf w) <;> rw [hsel]
    · rfl
    · exact decide_eq_true hk
  · exact decide_eq_true h

theorem canonical_decodeOp (n : Nat) (w : OpWord) : canonical (decodeOp n w) = decodeOp n w := by
  rcases decodeOp_cases n w with ⟨-, e⟩ | ⟨-, e⟩ | ⟨-, e⟩ | ⟨-, e⟩ | ⟨-, e⟩ | ⟨-, e⟩ | ⟨-, e⟩ |
    ⟨-, e⟩ | ⟨-, e⟩ <;> rw [e, canonical]

/-- The selector that the code of a well-formed field selector stands for. -/
theorem fieldSelector_fieldSelectorCode {n : Nat} {f : Selector FieldName}
    (h : (Instr.frd f).wf n = true) : fieldSelector (fieldSelectorCode f) = f := by
  cases f with
  | named f => exact fieldSelector_code f
  | reserved k => exact fieldSelector_reserved (of_decide_eq_true h)

/-- The selector that the code of a well-formed result selector stands for. -/
theorem resultSelector_resultSelectorCode {n : Nat} {q : Selector ResultName}
    (h : (Instr.rrd q).wf n = true) : resultSelector (resultSelectorCode q) = q := by
  cases q with
  | named q => exact resultSelector_code q
  | reserved k => exact resultSelector_reserved (of_decide_eq_true h)

section
variable {n : Nat}

theorem decodeOp_encode_frd {f : Selector FieldName} (h : (Instr.frd f).wf n = true) :
    decodeOp n (opWord 2 (fieldSelectorCode f) 0) = .frd f := by
  rw [decodeOp_frd (opcOf_opWord _ _ _), selOf_opWord, fieldSelector_fieldSelectorCode h]

theorem decodeOp_encode_fwr {f : Selector FieldName} {v : BitVec 8}
    (h : (Instr.fwr f v).wf n = true) :
    decodeOp n (opWord 3 (fieldSelectorCode f) (v.setWidth 64)) = .fwr f v := by
  rw [decodeOp_fwr (opcOf_opWord _ _ _), selOf_opWord, dataOf_opWord]
  cases f with
  | named f => rw [fieldSelectorCode, fieldSelector_code, fwrValue_setWidth (of_decide_eq_true h)]
  | reserved k =>
    obtain ⟨hk, hv⟩ := Bool.and_eq_true_iff.mp h
    rw [fieldSelectorCode, fieldSelector_reserved (of_decide_eq_true hk), of_decide_eq_true hv,
      fwrValue]

theorem decodeOp_encode_twr (tf tc : BitVec 8) :
    decodeOp n (opWord 4 0 ((tf ++ tc).setWidth 64)) = .twr tf tc := by
  obtain ⟨htf, htc⟩ := extractLsb'_bytes tf tc
  rw [decodeOp_twr (opcOf_opWord _ _ _), dataOf_opWord, htf, htc]

theorem decodeOp_encode_send {r : Nat} (h : r < repeatBound n) :
    decodeOp n (opWord 5 0 (BitVec.ofNat 64 r)) = .send r := by
  have hr : r < 2 ^ 64 := h.trans_le (repeatBound_le n)
  rw [decodeOp_send (opcOf_opWord _ _ _), dataOf_opWord, BitVec.toNat_ofNat, Nat.mod_eq_of_lt hr,
    Nat.mod_eq_of_lt h]

theorem decodeOp_encode_cwwr (v : Word64) : decodeOp n (opWord 1 0 v) = .cwwr v := by
  rw [decodeOp_cwwr (opcOf_opWord _ _ _), dataOf_opWord]

theorem decodeOp_encode_rrd {q : Selector ResultName} (h : (Instr.rrd q).wf n = true) :
    decodeOp n (opWord 7 (resultSelectorCode q) 0) = .rrd q := by
  rw [decodeOp_rrd (opcOf_opWord _ _ _), selOf_opWord, resultSelector_resultSelectorCode h]

theorem decodeOp_encode_reserved {k : BitVec 4} (h : 8 ≤ k.toNat) :
    decodeOp n (opWord k 0 0) = .reservedOpc k := by
  have hk := opcOf_opWord k 0 0
  rw [decodeOp_reserved (by rwa [hk]), hk]

/-- Decoding the encoding of a well-formed instruction gives the instruction it stands for. -/
theorem decodeEncoding_encode {i : Instr} (h : i.wf n = true) :
    decodeEncoding n (encode i) = .ok (canonical i) := by
  cases i with
  | cwrd => exact congrArg _ (decodeOp_cwrd (opcOf_opWord 0 0 0))
  | cwwr v => exact congrArg _ (decodeOp_encode_cwwr v)
  | frd f => exact congrArg _ (decodeOp_encode_frd h)
  | fwr f v => exact congrArg _ (decodeOp_encode_fwr h)
  | twr tf tc => exact congrArg _ (decodeOp_encode_twr tf tc)
  | send r => exact congrArg _ (decodeOp_encode_send (of_decide_eq_true h))
  | decode => exact congrArg _ (decodeOp_decode (opcOf_opWord 6 0 0))
  | rrd q => exact congrArg _ (decodeOp_encode_rrd h)
  | reservedOpc k => exact congrArg _ (decodeOp_encode_reserved (of_decide_eq_true h))
  | pwron => exact congrArg _ (decodeOp_encode_fwr (f := .named .pwr) (v := 1) rfl)
  | pwroff => exact congrArg _ (decodeOp_encode_fwr (f := .named .pwr) (v := 0) rfl)
  | unitc => exact congrArg _ (decodeOp_encode_fwr (f := .named .units) (v := 1) rfl)
  | unitf => exact congrArg _ (decodeOp_encode_fwr (f := .named .units) (v := 0) rfl)
  | accept v => exact congrArg _ (decodeOp_encode_cwwr v)
  | hdr | bit0 | bit1 | trail => rfl
  | cw40 c => exact congrArg (Except.ok ∘ Instr.cw40) (unpackCommand_packCommand c)

/-- The ignored bits of a word are ignored. -/
theorem decodeOp_and_usedBits (w : OpWord) : decodeOp n (w &&& usedBits n w) = decodeOp n w := by
  have h := decodeEncoding_encode (wf_decodeOp n w)
  rw [encode_decodeOp, canonical_decodeOp] at h
  exact Except.ok.inj h

theorem decodeOp_eq_iff {w w' : OpWord} :
    decodeOp n w = decodeOp n w' ↔ w &&& usedBits n w = w' &&& usedBits n w' := by
  constructor
  · intro h
    have hcode := congrArg encode h
    rw [encode_decodeOp, encode_decodeOp] at hcode
    exact Encoding.op.inj hcode
  · intro h
    rw [← decodeOp_and_usedBits, h, decodeOp_and_usedBits]
end

/-! ## Legal and illegal words (30_encoding.md R88, 60_exceptions.md R194) -/

/-- The illegal words by their operation code and selector. -/
theorem illegalWord_iff {w : OpWord} : illegalWord w ↔ 8 ≤ (opcOf w).toNat ∨
    ((opcOf w = 2 ∨ opcOf w = 3) ∧ 5 ≤ (selOf w).toNat) ∨
    (opcOf w = 7 ∧ 6 ≤ (selOf w).toNat) := Iff.rfl

/-- An illegal word is refused: with 1 for its operation code, else with 2 for its selector. -/
theorem exec_decodeOp_illegal {w : OpWord} (h : illegalWord w) (n : Nat) (s : State) :
    exec (decodeOp n w) s = .next (refuse (if 8 ≤ (opcOf w).toNat then 1 else 2) s) := by
  obtain h | ⟨h | h, hk⟩ | ⟨h, hk⟩ := illegalWord_iff.mp h
  · rw [decodeOp_reserved h, exec_reservedOpc, if_pos h]
  · rw [decodeOp_frd h, fieldSelector_reserved hk, exec_frd_reserved, h]
    rfl
  · rw [decodeOp_fwr h, fieldSelector_reserved hk, exec_fwr_reserved, h]
    rfl
  · rw [decodeOp_rrd h, resultSelector_reserved hk, exec_rrd_reserved, h]
    rfl

/-- A legal word is answered, and not refused. -/
theorem exec_decodeOp_legal {w : OpWord} (hw : ¬ illegalWord w) (n : Nat) (s : State) :
    ∃ t r, exec (decodeOp n w) s = .next t ∧ t.rsp = some r ∧ r.status ≠ .refused := by
  rcases decodeOp_cases n w with ⟨h, e⟩ | ⟨h, e⟩ | ⟨h, e⟩ | ⟨h, e⟩ | ⟨h, e⟩ | ⟨h, e⟩ | ⟨h, e⟩ |
    ⟨h, e⟩ | ⟨h, e⟩ <;> rw [e]
  · exact ⟨_, _, exec_cwrd s, rfl, nofun⟩
  · exact ⟨_, _, exec_cwwr _ s, rfl, nofun⟩
  · obtain ⟨f, -, hsel⟩ | ⟨hk, -⟩ := fieldSelector_cases (selOf w)
    · rw [hsel]
      exact ⟨_, _, exec_frd_named f s, rfl, nofun⟩
    · exact absurd (.inr (.inl ⟨.inl h, hk⟩)) hw
  · obtain ⟨f, -, hsel⟩ | ⟨hk, -⟩ := fieldSelector_cases (selOf w)
    · rw [hsel]
      exact ⟨_, _, exec_fwr_named f _ s, rfl, nofun⟩
    · exact absurd (.inr (.inl ⟨.inr h, hk⟩)) hw
  · exact ⟨_, _, exec_twr _ _ s, rfl, nofun⟩
  · exact ⟨_, _, exec_send _ s, rfl, nofun⟩
  · rw [exec_decode]
    obtain ⟨-, he⟩ | ⟨c, -, he⟩ := finishDecode_cases
        (decodeBuffer s.par.tolPct s.buf (sampleInputs s)).1
        { s with dec := (decodeBuffer s.par.tolPct s.buf (sampleInputs s)).2 } <;>
      exact ⟨_, _, congrArg _ he, rfl, nofun⟩
  · obtain ⟨q, -, hsel⟩ | ⟨hk, -⟩ := resultSelector_cases (selOf w)
    · rw [hsel]
      exact ⟨_, _, exec_rrd_named q s, rfl, nofun⟩
    · exact absurd (.inr (.inr ⟨h, hk⟩)) hw
  · exact absurd (.inl h) hw

/-! ## The pseudo-operations (30_encoding.md R91) -/

/-- Writing 1 to a field of one bit sets that bit. -/
theorem writeField_one {f : FieldName} (h : fieldWidth f = 1) (cw : Word64) :
    writeField f 1 cw = cw ||| (1#64 <<< fieldShift f) := by
  have hset : ∀ m : Word64, (cw &&& ~~~m) ||| m = cw ||| m := by
    intro m
    ext i hi
    rw [BitVec.getElem_or, BitVec.getElem_and, BitVec.getElem_not, BitVec.getElem_or]
    cases m[i] <;> simp
  rw [writeField, h]
  exact hset _

/-- Writing 0 to a field of one bit clears that bit. -/
theorem writeField_zero {f : FieldName} (h : fieldWidth f = 1) (cw : Word64) :
    writeField f 0 cw = cw &&& ~~~(1#64 <<< fieldShift f) := by
  have hmask : mask 1 = 1#64 := rfl
  simp [writeField, fieldWrite, h, hmask]

/-! ## The assembler (30_encoding.md R90) -/

theorem fits_eq_some {n v : Nat} (h : v < 2 ^ n) : fits n v = some (BitVec.ofNat n v) := if_pos h

theorem fits_eq_none {n v : Nat} (h : 2 ^ n ≤ v) : fits n v = none := if_neg (Nat.not_lt.mpr h)

theorem toNat_of_fits {n v : Nat} {a : BitVec n} (h : fits n v = some a) : a.toNat = v := by
  obtain hv | hv := Nat.lt_or_ge v (2 ^ n)
  · rw [fits_eq_some hv] at h
    cases h
    exact Nat.mod_eq_of_lt hv
  · rw [fits_eq_none hv] at h
    cases h

theorem operandBound_le (f : FieldName) : f.operandBound ≤ 2 ^ 8 := by
  cases f <;> decide

/-- The two bytes of TWR as one number. -/
theorem setWidth_bytes_ofNat {a b : Nat} (ha : a < 256) (hb : b < 256) :
    (BitVec.ofNat 8 a ++ BitVec.ofNat 8 b).setWidth 64 = BitVec.ofNat 64 (a * 256 + b) := by
  apply BitVec.eq_of_toNat_eq
  rw [BitVec.toNat_setWidth_of_le (by decide), BitVec.toNat_append, BitVec.toNat_ofNat,
    BitVec.toNat_ofNat, BitVec.toNat_ofNat, Nat.mod_eq_of_lt ha, Nat.mod_eq_of_lt hb,
    ← Nat.shiftLeft_add_eq_or_of_lt hb, Nat.shiftLeft_eq]
  omega

/-- Every line that assembles gives a well-formed operation. -/
theorem assemble_wf {n : Nat} {l : AsmLine} {i : Instr} (h : assemble n l = some i) :
    i.wf n = true ∧ ∃ w, encode i = .op w := by
  cases l with
  | cwwr v | accept v =>
    obtain ⟨a, -, rfl⟩ := Option.map_eq_some_iff.mp h
    exact ⟨rfl, _, rfl⟩
  | fwr f v =>
    obtain ⟨hv, h⟩ := Option.ite_none_right_eq_some.mp h
    obtain ⟨a, ha, rfl⟩ := Option.map_eq_some_iff.mp h
    exact ⟨decide_eq_true (by rwa [toNat_of_fits ha]), _, rfl⟩
  | twr tf tc =>
    obtain ⟨a, -, h⟩ := Option.bind_eq_some_iff.mp h
    obtain ⟨b, -, rfl⟩ := Option.map_eq_some_iff.mp h
    exact ⟨rfl, _, rfl⟩
  | send r =>
    obtain ⟨hr, h⟩ := Option.ite_none_right_eq_some.mp h
    cases h
    exact ⟨decide_eq_true hr, _, rfl⟩
  | cwrd | frd f | decode | rrd q | pwron | pwroff | unitc | unitf =>
    cases h
    exact ⟨rfl, _, rfl⟩

/-! ## Emission (30_encoding.md R73 to R75, 41_encoder.md R126) -/

/-- The data symbols, most significant bit first. -/
theorem dataSegments_eq (k : Nat) (p : Payload) :
    dataSegments k p = (List.range k).flatMap (fun j => bitSymbol (p.getLsbD (k - 1 - j))) := by
  induction k with
  | zero => rfl
  | succ k ih =>
    rw [dataSegments, ih, List.range_succ_eq_map, List.flatMap_cons, List.flatMap_map]
    simp [Nat.sub_sub, Nat.add_comm]

/-- Every data symbol ends in a space, so the line is low after the data bits. -/
theorem lastLevel_dataSegments (p : Payload) (k : Nat) :
    ∀ l : Bool, lastLevel l (dataSegments (k + 1) p) = false := by
  induction k with
  | zero => exact fun _ => rfl
  | succ k ih =>
    intro l
    rw [dataSegments, lastLevel_append]
    exact ih _

theorem framesSegments_eq (n : Nat) (p : Payload) :
    framesSegments n p = (List.replicate n (frameSegments p)).flatten := by
  induction n with
  | zero => rfl
  | succ n ih => rw [framesSegments, ih, List.replicate_succ, List.flatten_cons]

/-- Run from any state, these instructions put these segments on the line and do nothing else. -/
def Emits (is : List Instr) (segs : List Segment) : Prop :=
  ∀ s, runAll is s = .next (emit segs s)

theorem runAll_append {a b : List Instr} {s t : State} (h : runAll a s = .next t) :
    runAll (a ++ b) s = runAll b t := by
  induction a generalizing s with
  | nil =>
    cases h
    rfl
  | cons i rest ih =>
    rw [List.cons_append, runAll]
    rw [runAll] at h
    cases he : exec i s with
    | next u =>
      rw [he] at h
      exact ih h
    | fault f | refused r => simp [he] at h

theorem emits_nil : Emits [] [] := fun _ => rfl

theorem Emits.append {a b : List Instr} {f g : List Segment} (ha : Emits a f) (hb : Emits b g) :
    Emits (a ++ b) (f ++ g) := by
  intro s
  rw [runAll_append (ha s), hb, emit_append]

theorem emits_one {i : Instr} {g : List Segment} (h : ∀ s, exec i s = .next (emit g s)) :
    Emits [i] g := by
  intro s
  rw [runAll, h]
  rfl

theorem emits_map {α : Type} {i : α → Instr} {g : α → List Segment} (h : ∀ a, Emits [i a] (g a))
    (l : List α) : Emits (l.map i) (l.flatMap g) := by
  induction l with
  | nil => exact emits_nil
  | cons a rest ih => exact (h a).append ih

theorem Emits.replicate {a : List Instr} {g : List Segment} (h : Emits a g) (n : Nat) :
    Emits (List.replicate n a).flatten (List.replicate n g).flatten := by
  induction n with
  | zero => exact emits_nil
  | succ n ih => exact h.append ih

/-- A data bit as its symbol (30_encoding.md R73). -/
theorem emits_bit (b : Bool) : Emits [if b then .bit1 else .bit0] (bitSymbol b) := by
  cases b
  · exact emits_one exec_bit0
  · exact emits_one exec_bit1

theorem payloadOf_getLsbD (cw : Word64) (k : Nat) :
    (payloadOf cw).getLsbD (39 - k) = cw.getLsbD (39 - k) := by
  rw [payloadOf, BitVec.getLsbD_setWidth, decide_eq_true (by omega), Bool.true_and]

/-- One frame of a command word in symbols (30_encoding.md R74). -/
theorem emits_frame (cw : Word64) :
    Emits ([.hdr] ++ (List.range 40).map (fun k => if cw.getLsbD (39 - k) then .bit1 else .bit0) ++
      [.trail]) (frameSegments (payloadOf cw)) := by
  rw [frameSegments, Config.frameBits, dataSegments_eq]
  simp only [Nat.add_one_sub_one, payloadOf_getLsbD]
  exact ((emits_one exec_hdr).append (emits_map (fun k => emits_bit (cw.getLsbD (39 - k))) _)).append
    (emits_one exec_trail)

/-! ## The obligations -/

/-- Settles O13: the parts of the word an instruction encodes to are its operands, instruction by
instruction (`decodeEncoding_encode`). -/
theorem decodingAnEncodingGivesTheInstructionBack :
    Obligations.DecodingAnEncodingGivesTheInstructionBack :=
  fun _ _ => decodeEncoding_encode

/-- Settles O14: the used bits of a word are its operation code, its selector or none, and the low bits
of its data (`encode_decodeOp`). -/
theorem encodingADecodedWordClearsItsIgnoredBits :
    Obligations.EncodingADecodedWordClearsItsIgnoredBits :=
  fun n w => ⟨encode_decodeOp n w, wf_decodeOp n w⟩

/-- Settles O12: a word decodes as its used bits do, and these are the encoding of what it decodes to
(`decodeOp_eq_iff`). -/
theorem wordsAreTheSameOperationWhenTheirUsedBitsAgree :
    Obligations.WordsAreTheSameOperationWhenTheirUsedBitsAgree :=
  fun _ _ _ => decodeOp_eq_iff

/-- Settles O11: an illegal word decodes to a reserved code or selector, which is refused, and a legal
word to an operation that answers. -/
theorem exactlyTheIllegalWordsAreRefused : Obligations.ExactlyTheIllegalWordsAreRefused :=
  ⟨fun _ s hw => exec_decodeOp_illegal hw s.par.rptW s,
    fun _ s hw => exec_decodeOp_legal hw s.par.rptW s,
    fun _ _ _ => decodeOp_eq_iff.mpr, exec_reservedOpc⟩

/-- Settles O23: the frames of a SEND are runs of symbols (`emits_frame`), repeated. -/
theorem sendIsItsSymbolsInOrder : Obligations.SendIsItsSymbolsInOrder := by
  intro r s
  refine ⟨_, emit (sendTrace (payloadOf s.cw) r) s, exec_send r s, ?_, rfl⟩
  rw [sendTrace, framesSegments_eq]
  exact (emits_frame s.cw).replicate (r + 1) s

/-- Settles O17: a pseudo-operation writes one bit (`writeField_one`, `writeField_zero`), or all of CW. -/
theorem pseudoOperationsDoWhatTheyExpandTo : Obligations.PseudoOperationsDoWhatTheyExpandTo := by
  refine ⟨⟨rfl, rfl, rfl, rfl, fun _ => rfl⟩, fun _ => ⟨rfl, rfl, rfl, rfl, fun _ => rfl⟩, ?_⟩
  intro s
  rw [exec_pwron, exec_pwroff, exec_unitc, exec_unitf, writeField_one rfl, writeField_one rfl,
    writeField_zero rfl, writeField_zero rfl]
  exact ⟨rfl, rfl, rfl, rfl, fun v => exec_accept v s⟩

/-- Settles O18, line by line: a number is an operand exactly when it fits. -/
theorem assemblerEncodesEachLineAndRefusesOversizedValues :
    Obligations.AssemblerEncodesEachLineAndRefusesOversizedValues := by
  intro n
  refine ⟨fun _ _ => assemble_wf, rfl, ?_, fun _ => rfl, ?_, ?_, ?_, rfl, fun _ => rfl, ?_, ?_, ?_, ?_,
    rfl⟩
  · intro v hv
    rw [assemble, fits_eq_some hv]
    rfl
  · intro f v hv
    have h8 : v < 2 ^ 8 := hv.trans_le (operandBound_le f)
    have hword : (BitVec.ofNat 8 v).setWidth 64 = BitVec.ofNat 64 v :=
      BitVec.setWidth_ofNat_of_le_of_lt (by decide) h8
    rw [assemble, if_pos hv, fits_eq_some h8, ← hword]
    rfl
  · intro tf tc htf htc
    rw [assemble, fits_eq_some htf, fits_eq_some htc, ← setWidth_bytes_ofNat htf htc]
    rfl
  · intro r hr
    rw [assemble, if_pos hr]
    rfl
  · intro v hv
    rw [assemble, assemble, fits_eq_none hv]
    exact ⟨rfl, rfl⟩
  · intro f v hv
    exact if_neg (Nat.not_lt.mpr hv)
  · intro tf tc h
    rw [assemble]
    obtain h | h := h <;> rw [fits_eq_none (n := 8) h]
    · rfl
    · exact Option.bind_fun_none _
  · intro r hr
    exact if_neg (Nat.not_lt.mpr hr)

/-- Settles O19: each symbol emits its segments, of which the last is a space. -/
theorem wireSymbolsPutTheirSegmentsOnTheLine : Obligations.WireSymbolsPutTheirSegmentsOnTheLine :=
  fun s => ⟨exec_hdr s, exec_bit0 s, exec_bit1 s, exec_trail s⟩

/-- Settles O20: the data segments bit by bit (`dataSegments_eq`), which leave the line low. -/
theorem commandWordGoesOutMostSignificantBitFirst :
    Obligations.CommandWordGoesOutMostSignificantBitFirst := by
  intro c s
  rw [exec_cw40, emit, lastLevel_dataSegments _ 39, dataSegments_eq]
  rfl

/-- Settles O16: the decoder is run on each word. -/
theorem writtenOutWordsDecodeAsListed : Obligations.WrittenOutWordsDecodeAsListed := by
  unfold Obligations.WrittenOutWordsDecodeAsListed
  decide

end Sys2Proof
end

section
/-! The statements of the command word operations (40_command_word_ops.md): reading and writing the
command word whole and by field, the result registers, and the decode handoff. -/

namespace Sys2Proof.Machine

/-! ## Fields of the command word (10_state.md R21, 30_encoding.md R71) -/

/-- A field lies within the 64 bits of the command word. -/
theorem field_fits (f : FieldName) : fieldShift f + fieldWidth f ≤ 64 := by
  cases f <;> decide

theorem fieldWidth_le (f : FieldName) : fieldWidth f ≤ 64 :=
  le_of_add_le_right (field_fits f)

theorem readField_getLsbD (f : FieldName) (cw : Word64) (i : Nat) :
    (readField f cw).getLsbD i = (cw.getLsbD (fieldShift f + i) && decide (i < fieldWidth f)) :=
  fieldRead_getLsbD _ _ _ _ (fieldWidth_le f)

theorem writeField_getLsbD (f : FieldName) (v cw : Word64) {i : Nat} (hi : i < 64) :
    (writeField f v cw).getLsbD i =
      if fieldShift f ≤ i ∧ i < fieldShift f + fieldWidth f then v.getLsbD (i - fieldShift f)
      else cw.getLsbD i :=
  fieldWrite_getLsbD _ _ _ _ _ (fieldWidth_le f) hi

/-- Reading a field is taking its slice, zero-extended. -/
theorem readField_eq_extractLsb' (f : FieldName) (cw : Word64) :
    readField f cw = (cw.extractLsb' (fieldShift f) (fieldWidth f)).setWidth 64 := by
  apply BitVec.eq_of_getLsbD_eq
  intro i hi
  rw [readField_getLsbD, BitVec.getLsbD_setWidth, BitVec.getLsbD_extractLsb', decide_eq_true hi,
    Bool.true_and, Bool.and_comm]

/-! ## The laws of field writes (40_command_word_ops.md R105) -/

theorem readField_writeField_same (f : FieldName) (a cw : Word64) :
    readField f (writeField f a cw) = a &&& mask (fieldWidth f) := by
  have hfits := field_fits f
  apply BitVec.eq_of_getLsbD_eq
  intro i _
  rw [readField_getLsbD, BitVec.getLsbD_and, mask_getLsbD _ _ (fieldWidth_le f)]
  by_cases hw : i < fieldWidth f
  · rw [writeField_getLsbD f a cw (by omega), if_pos (by omega), Nat.add_sub_cancel_left]
  · simp [hw]

/-- A slice of the command word that no bit of the field lies in keeps its value. -/
theorem extractLsb'_writeField {f : FieldName} {s n : Nat} (a cw : Word64) (hn : s + n ≤ 64)
    (hout : s + n ≤ fieldShift f ∨ fieldShift f + fieldWidth f ≤ s) :
    (writeField f a cw).extractLsb' s n = cw.extractLsb' s n := by
  apply BitVec.eq_of_getLsbD_eq
  intro i hi
  rw [BitVec.getLsbD_extractLsb', BitVec.getLsbD_extractLsb',
    writeField_getLsbD f a cw (by omega), if_neg (by omega)]

/-- Two fields lie one above the other. -/
theorem fields_ordered {f g : FieldName} (h : f ≠ g) :
    fieldShift g + fieldWidth g ≤ fieldShift f ∨ fieldShift f + fieldWidth f ≤ fieldShift g := by
  revert h
  cases f <;> cases g <;> decide

theorem readField_writeField_other {f g : FieldName} (h : f ≠ g) (a cw : Word64) :
    readField g (writeField f a cw) = readField g cw := by
  rw [readField_eq_extractLsb', readField_eq_extractLsb',
    extractLsb'_writeField a cw (field_fits g) (fields_ordered h)]

/-- Bits 18 to 16 and 63 to 22 are in no field. -/
theorem extractLsb'_writeField_reserved (f : FieldName) (a cw : Word64) :
    (writeField f a cw).extractLsb' 16 3 = cw.extractLsb' 16 3 ∧
    (writeField f a cw).extractLsb' 22 42 = cw.extractLsb' 22 42 :=
  ⟨extractLsb'_writeField a cw (by decide) (by cases f <;> decide),
    extractLsb'_writeField a cw (by decide) (by cases f <;> decide)⟩

theorem writeField_writeField_same (f : FieldName) (a b cw : Word64) :
    writeField f b (writeField f a cw) = writeField f b cw := by
  apply BitVec.eq_of_getLsbD_eq
  intro i hi
  simp only [writeField_getLsbD _ _ _ hi]
  split <;> rfl

theorem writeField_comm {f g : FieldName} (h : f ≠ g) (a b cw : Word64) :
    writeField g b (writeField f a cw) = writeField f a (writeField g b cw) := by
  apply BitVec.eq_of_getLsbD_eq
  intro i hi
  have hapart := fields_apart h i
  simp only [writeField_getLsbD _ _ _ hi]
  by_cases hf : fieldShift f ≤ i ∧ i < fieldShift f + fieldWidth f
  · have hg : ¬(fieldShift g ≤ i ∧ i < fieldShift g + fieldWidth g) := fun hg => hapart ⟨hf, hg⟩
    simp only [if_pos hf, if_neg hg]
  · simp only [if_neg hf]

/-- The bits FWR writes are the low data bits of its word (30_encoding.md R86). -/
theorem writeField_fwrValue_getLsbD (f : FieldName) (w : OpWord) (cw : Word64) {i : Nat}
    (hi : i < 64) :
    (writeField f ((fwrValue (.named f) (dataOf w)).setWidth 64) cw).getLsbD i =
      if fieldShift f ≤ i ∧ i < fieldShift f + fieldWidth f then w.getLsbD (i - fieldShift f)
      else cw.getLsbD i := by
  rw [writeField_getLsbD f _ cw hi, setWidth_fwrValue]
  split
  · next hin =>
    have hw : i - fieldShift f < fieldWidth f := by omega
    rw [BitVec.getLsbD_and, mask_getLsbD _ _ (fieldWidth_le f), decide_eq_true hw, Bool.and_true,
      dataOf, BitVec.getLsbD_extractLsb', decide_eq_true (by omega), Bool.true_and, Nat.zero_add]
  · rfl

/-! ## Both temperatures in one write (40_command_word_ops.md R106) -/

theorem writeTemperatures_eq_append (tf tc : BitVec 8) (cw : Word64) :
    writeTemperatures tf tc cw = cw.extractLsb' 16 48 ++ tf ++ tc := by
  apply BitVec.eq_of_getLsbD_eq
  intro i hi
  simp only [writeTemperatures_getLsbD tf tc cw i hi, BitVec.getLsbD_append,
    BitVec.getLsbD_extractLsb']
  by_cases h8 : i < 8
  · simp only [h8, if_true]
  · by_cases h16 : i < 16
    · simp only [h8, h16, show i - 8 < 8 by omega, if_true, if_false]
    · simp only [h8, h16, show ¬ i - 8 < 8 by omega, show i - 8 - 8 < 48 by omega, if_false,
        decide_true, Bool.true_and, show 16 + (i - 8 - 8) = i by omega]

theorem writeTemperatures_eq_writeField (tf tc : BitVec 8) (cw : Word64) :
    writeTemperatures tf tc cw =
      writeField .tc (tc.setWidth 64) (writeField .tf (tf.setWidth 64) cw) := by
  apply BitVec.eq_of_getLsbD_eq
  intro i hi
  rw [writeTemperatures_getLsbD tf tc cw i hi]
  simp only [writeField_getLsbD _ _ _ hi, fieldShift, fieldWidth, BitVec.getLsbD_setWidth]
  by_cases h8 : i < 8
  · simp [h8, hi]
  · by_cases h16 : i < 16
    · simp [h8, h16, show 8 ≤ i by omega, show i - 8 < 64 by omega]
    · simp [h8, h16]

theorem extractLsb'_writeTemperatures (tf tc : BitVec 8) (cw : Word64) :
    (writeTemperatures tf tc cw).extractLsb' 0 16 = tf ++ tc := by
  apply BitVec.eq_of_getLsbD_eq
  intro i hi
  rw [BitVec.getLsbD_extractLsb', decide_eq_true hi, Bool.true_and, Nat.zero_add,
    writeTemperatures_getLsbD tf tc cw i (by omega), BitVec.getLsbD_append, if_pos hi]

/-- A second write of CW overwrites the first and its response. -/
theorem respond_setCw_respond_setCw (st st' : Status) (d d' v v' : Word64) (s : State) :
    respond st' d' (setCw v' (respond st d (setCw v s))) = respond st' d' (setCw v' s) := rfl

/-! ## The result registers and the end of a DECODE (40_command_word_ops.md R107, R109) -/

theorem readResult_ok (p : Params) (r : Results) :
    readResult p .ok r = (BitVec.ofBool r.ok).setWidth 64 := by
  rw [readResult]
  cases r.ok <;> rfl

/-- DECODE keeps CW, and after the response OK the result is there, of forty bits (42_decoder.md R163,
R172). -/
theorem exec_decode_result (s : State) : ∃ t, exec .decode s = .next t ∧ t.cw = s.cw ∧
    (t.rsp = some { status := .ok, rdata := 0 } → t.res.ok = true ∧ t.res.value.toNat < 2 ^ 40) := by
  have hsane := decodeBuffer_endsSane s.par.tolPct s.buf (sampleInputs s)
  refine ⟨_, exec_decode s, ?_⟩
  obtain ⟨he, e⟩ | ⟨c, -, e⟩ := finishDecode_cases
    (decodeBuffer s.par.tolPct s.buf (sampleInputs s)).1
    { s with dec := (decodeBuffer s.par.tolPct s.buf (sampleInputs s)).2 } <;> rw [e]
  · exact ⟨rfl, fun _ => ⟨rfl, hsane.gathered he⟩⟩
  · exact ⟨rfl, fun h => by simp at h⟩

theorem extractLsb'_eq_zero_of_lt {v : Word64} {k n : Nat} (h : v.toNat < 2 ^ k) :
    v.extractLsb' k n = 0 := by
  apply BitVec.eq_of_toNat_eq
  rw [BitVec.extractLsb'_toNat, Nat.shiftRight_eq_div_pow, Nat.div_eq_of_lt h]
  simp

/-! ## The obligations -/

/-- Settles O7: the selector is a field's code, whose data bits are written
(`writeField_fwrValue_getLsbD`), or it is reserved. -/
theorem fwrWritesExactlyTheBitsOfItsField : Obligations.FwrWritesExactlyTheBitsOfItsField := by
  refine ⟨fun w hopc f hsel s => ?_, fun w hopc hk s => ?_, exec_fwr_named, exec_fwr_reserved⟩
  · have hdec : decodeOp s.par.rptW w = .fwr (.named f) (fwrValue (.named f) (dataOf w)) := by
      rw [decodeOp_fwr hopc, selOf, hsel, fieldSelector_code]
    rw [hdec]
    exact ⟨_, exec_fwr_named f _ s, fun i hi => writeField_fwrValue_getLsbD f w s.cw hi⟩
  · rw [decodeOp_fwr hopc, selOf, fieldSelector_reserved hk]
    exact exec_fwr_reserved _ _ s

/-- Settles O8, law by law; a one-bit field written twice is the second write, of 0. -/
theorem fieldWritesObeyTheirLaws : Obligations.FieldWritesObeyTheirLaws := by
  refine ⟨readField_writeField_same, fun _ _ a cw h => readField_writeField_other h a cw,
    extractLsb'_writeField_reserved, writeField_writeField_same,
    fun _ _ a b cw h => writeField_comm h a b cw, fun cw => ?_, fun cw => ?_⟩
  · exact (writeField_writeField_same .pwr 1 0 cw).trans (writeField_zero rfl cw)
  · exact (writeField_writeField_same .units 1 0 cw).trans (writeField_zero rfl cw)

/-- Settles O9: the write of both bytes is the two field writes (`writeTemperatures_eq_writeField`),
which commute. -/
theorem twrWritesBothTemperaturesInOneStep : Obligations.TwrWritesBothTemperaturesInOneStep := by
  refine ⟨fun n w hopc => ?_, fun tf tc s => ?_, fun tf tc s => ?_, fun tf tc s => ?_, fun s => ?_⟩
  · rw [decodeOp_twr hopc, dataOf, BitVec.extractLsb'_extractLsb'_of_le (by decide),
      BitVec.extractLsb'_extractLsb'_of_le (by decide)]
  · rw [exec_twr, writeTemperatures_eq_append]
    rfl
  · refine ⟨_, _, exec_twr tf tc s, exec_fwr_named .tf tf s, ?_⟩
    rw [exec_fwr_named, respond_setCw_respond_setCw, writeTemperatures_eq_writeField]
    rfl
  · refine ⟨_, _, exec_twr tf tc s, exec_fwr_named .tc tc s, ?_⟩
    rw [exec_fwr_named, respond_setCw_respond_setCw, writeTemperatures_eq_writeField,
      writeField_comm (by decide)]
    rfl
  · exact ⟨_, exec_twr 105 41 s, extractLsb'_writeTemperatures 105 41 s.cw⟩

/-- Settles O35: a success leaves forty bits (`exec_decode_result`), which CWWR then puts in CW. -/
theorem decodeHandoffClearsTheUntransmittedBits :
    Obligations.DecodeHandoffClearsTheUntransmittedBits := by
  intro s
  obtain ⟨t, ht, hcw, hres⟩ := exec_decode_result s
  refine ⟨t, ht, hcw, fun hrsp => ?_⟩
  obtain ⟨hok, hvalue⟩ := hres hrsp
  have hone : readResult t.par .ok t.res = 1 := by
    rw [readResult_ok, hok]
    rfl
  refine ⟨?_, exec_rrd_named .value t, _, exec_cwwr _ t, rfl, extractLsb'_eq_zero_of_lt hvalue,
    fun f => exec_frd_named f _⟩
  rw [exec_rrd_named, hone]
  rfl

/-- Settles O4, from what opc 0 decodes to (`decodeOp_cwrd`) and what CWRD does (`exec_cwrd`). -/
theorem cwrdAnswersTheWholeCommandWord : Obligations.CwrdAnswersTheWholeCommandWord :=
  ⟨fun _ _ => decodeOp_cwrd, exec_cwrd, exec_cwrd State.reset⟩

/-- Settles O5, from what opc 1 decodes to and what CWWR and then CWRD do. -/
theorem cwwrReplacesTheWholeCommandWord : Obligations.CwwrReplacesTheWholeCommandWord :=
  ⟨fun _ _ => decodeOp_cwwr, exec_cwwr, fun v s => ⟨_, exec_cwwr v s, exec_cwrd _⟩⟩

/-- Settles O6: the selector is a field's code, whose slice is read (`readField_eq_extractLsb'`), or it
is reserved. -/
theorem frdAnswersTheFieldZeroExtended : Obligations.FrdAnswersTheFieldZeroExtended := by
  refine ⟨fun w hopc s => ?_, exec_frd_named, exec_frd_reserved⟩
  rw [decodeOp_frd hopc, selOf]
  obtain ⟨f, hcode, hsel⟩ | ⟨hk, hsel⟩ := fieldSelector_cases (w.extractLsb' 64 4) <;> rw [hsel]
  · rw [hcode, exec_frd_named, readField_eq_extractLsb']
    cases f <;> rfl
  · rw [exec_frd_reserved]
    split
    case h_6 => rfl
    all_goals omega

/-- Settles O10: the selector is a result register's code or reserved; the invariant says what ADDR,
CMD and BITS hold. -/
theorem rrdAnswersTheResultRegister : Obligations.RrdAnswersTheResultRegister := by
  refine ⟨fun w hopc s => ?_, fun q s => ⟨_, exec_rrd_named q s⟩, exec_rrd_reserved, fun q => ?_,
    fun s hs => ?_⟩
  · rw [decodeOp_rrd hopc, selOf]
    obtain ⟨q, hcode, hsel⟩ | ⟨hk, hsel⟩ := resultSelector_cases (w.extractLsb' 64 4) <;> rw [hsel]
    · rw [hcode, exec_rrd_named]
      cases q with
      | ok => rw [readResult_ok]; rfl
      | _ => rfl
    · rw [exec_rrd_reserved]
      split
      case h_7 => rfl
      all_goals omega
  · have hzero : readResult State.reset.par q State.reset.res = 0 := by cases q <;> decide
    rw [exec_rrd_named, hzero]
    rfl
  · obtain ⟨-, hbits, haddr, hcmd, -, -⟩ := hs.results
    simp only [exec_rrd_named, readResult, haddr, hcmd, Nat.zero_mod]
    refine ⟨rfl, rfl, hbits.imp (fun h => ?_) (fun h => ?_)⟩
    · rw [h]
      rfl
    · rw [h]
      rfl

end Sys2Proof.Machine
end

section
/-! The statements of the encoder (41_encoder.md): what a SEND puts on the line, how long it lasts, and
that the sequencer sends it tick by tick. -/

namespace Sys2Proof.Machine

/-! ## A SEND frame by frame (41_encoder.md R125 to R132) -/

/-- A frame ends in a space (41_encoder.md R127). -/
theorem lastLevel_frameSegments (p : Payload) (l : Bool) : lastLevel l (frameSegments p) = false := by
  have hone := lastLevel_frames p 0 l
  rwa [framesSegments, framesSegments, List.append_nil] at hone

/-- A quantity of what is put on the line from the level low, which adds up over any pieces that leave
it low. -/
structure AddsUp (f : List Segment → Nat) : Prop where
  nil    : f [] = 0
  append : ∀ a b, lastLevel false a = false → f (a ++ b) = f a + f b

/-- Every data symbol leaves the line low, so the quantity of the data bits is that of their symbols. -/
theorem AddsUp.data {f : List Segment → Nat} (h : AddsUp f) (p : Payload) (k : Nat) :
    f (dataSegments k p) = ((List.range k).map (fun j => f (bitSymbol (p.getLsbD j)))).sum := by
  induction k with
  | zero => exact h.nil
  | succ k ih =>
    rw [dataSegments, h.append _ _ rfl, ih, List.range_succ, List.map_append, List.sum_append]
    simp [Nat.add_comm]

/-- The quantity of a frame is that of its symbols. -/
theorem AddsUp.frame {f : List Segment → Nat} (h : AddsUp f) (p : Payload) :
    f (frameSegments p) = f hdrSymbol +
      ((List.range 40).map (fun j => f (bitSymbol (p.getLsbD j)))).sum + f trailSymbol := by
  have hlow : lastLevel false (hdrSymbol ++ dataSegments 40 p) = false := by
    rw [lastLevel_append]
    exact lastLevel_dataSegments p 39 _
  rw [frameSegments, Config.frameBits, h.append _ _ hlow, h.append _ _ rfl]
  exact congrArg (f hdrSymbol + · + f trailSymbol) (h.data p 40)

/-- Every frame leaves the line low, so the quantity of n frames is n times that of one. -/
theorem AddsUp.frames {f : List Segment → Nat} (h : AddsUp f) (p : Payload) (n : Nat) :
    f (framesSegments n p) = n * f (frameSegments p) := by
  have hlow := lastLevel_frameSegments p false
  induction n with
  | zero => rw [framesSegments, h.nil, Nat.zero_mul]
  | succ n ih => rw [framesSegments, h.append _ _ hlow, ih, Nat.succ_mul, Nat.add_comm]

/-- A quantity that does not depend on the bit. -/
theorem AddsUp.frames_of_bit {f : List Segment → Nat} (h : AddsUp f) {c : Nat}
    (hbit : ∀ b, f (bitSymbol b) = c) (p : Payload) (n : Nat) :
    f (framesSegments n p) = n * (f hdrSymbol + 40 * c + f trailSymbol) := by
  rw [h.frames, h.frame]
  simp only [hbit, List.map_const', List.sum_replicate, List.length_range, smul_eq_mul]

theorem addsUp_length : AddsUp List.length := ⟨rfl, fun _ _ _ => List.length_append⟩

theorem addsUp_countP (q : Segment → Bool) : AddsUp (List.countP q) :=
  ⟨rfl, fun _ _ _ => List.countP_append⟩

theorem addsUp_totalDuration : AddsUp totalDuration :=
  ⟨rfl, fun a b _ => by simp [totalDuration]⟩

theorem risingEdges_append (l : Bool) (a b : List Segment) :
    risingEdges l (a ++ b) = risingEdges l a + risingEdges (lastLevel l a) b := by
  induction a generalizing l with
  | nil => exact (Nat.zero_add _).symm
  | cons g rest ih => simp only [List.cons_append, risingEdges, lastLevel, ih, Nat.add_assoc]

theorem fallingEdges_append (l : Bool) (a b : List Segment) :
    fallingEdges l (a ++ b) = fallingEdges l a + fallingEdges (lastLevel l a) b := by
  induction a generalizing l with
  | nil => exact (Nat.zero_add _).symm
  | cons g rest ih => simp only [List.cons_append, fallingEdges, lastLevel, ih, Nat.add_assoc]

theorem addsUp_risingEdges : AddsUp (risingEdges false) :=
  ⟨rfl, fun a b h => by rw [risingEdges_append, h]⟩

theorem addsUp_fallingEdges : AddsUp (fallingEdges false) :=
  ⟨rfl, fun a b h => by rw [fallingEdges_append, h]⟩

/-- T_frame: a 1 bit lasts 1680 microseconds longer than a 0 bit (R131). -/
theorem totalDuration_frameSegments (p : Payload) :
    totalDuration (frameSegments p) = frameTime p := by
  have hbit : ∀ b : Bool, totalDuration (bitSymbol b) = 1560 + if b = true then 1680 else 0 := by
    decide
  have hsum : ∀ l : List Nat, (l.map (fun j => totalDuration (bitSymbol (p.getLsbD j)))).sum =
      1560 * l.length + 1680 * l.countP (fun j => p.getLsbD j) := by
    intro l
    induction l with
    | nil => rfl
    | cons j rest ih =>
      rw [List.map_cons, List.sum_cons, hbit, ih, List.length_cons, List.countP_cons]
      split <;> omega
  have hhdr : totalDuration hdrSymbol = 11000 := rfl
  have htrail : totalDuration trailSymbol = 1860 := rfl
  rw [addsUp_totalDuration.frame, hsum, hhdr, htrail, List.length_range, frameTime, onesOf]
  omega

/-- A capture of frames has 82 entries a frame, whatever the width of an entry (20_memory.md R53). -/
theorem length_captureOf_frames (durW : Nat) (p : Payload) (n : Nat) :
    (captureOf durW (framesSegments n p)).length = 82 * n := by
  have hframe : (capturedFrame p).length = 82 := by
    simp [capturedFrame, capturedBits, List.length_flatMap]
  have hlen := congrArg List.length (mergeSegments_frames p n)
  rw [List.length_map] at hlen
  rw [captureOf, (opensWithMark_frames p n).mergeSegments.dropLeadingSpace, List.length_map, hlen]
  simp [hframe, Nat.mul_comm]

/-- The last entry is the last BIT_SPACE and TRAIL together (20_memory.md R53). -/
theorem getLast?_captureOf_frames {durW : Nat} (hw : 13 ≤ durW) (p : Payload) (n : Nat) :
    (captureOf durW (framesSegments (n + 1) p)).getLast? = some 2700 := by
  obtain ⟨front, hfront⟩ : ∃ front, capturedBits p 39 = front ++ [2700] :=
    ⟨_ ++ [markOf (p.getLsbD 0)], (List.append_assoc _ [_] [2700]).symm⟩
  have hframe : capturedFrame p = 7000 :: 4000 :: front ++ [2700] := by
    rw [capturedFrame, hfront, List.cons_append, List.cons_append]
  rw [captureOf_frames hw, List.replicate_succ', List.flatten_append, List.flatten_singleton, hframe,
    ← List.append_assoc, List.getLast?_concat]

/-! ## Runs of the machine -/

section
variable {M : Host.Core} {s t : M.State}

theorem run_succ (h : M.step s = .next t) (n : Nat) : M.run (n + 1) s = M.run n t := by
  rw [Host.Core.run, h]

theorem run_add {m : Nat} (h : M.run m s = .next t) (n : Nat) : M.run (m + n) s = M.run n t := by
  induction m generalizing s with
  | zero => cases h; rw [Nat.zero_add]
  | succ m ih =>
    rw [Host.Core.run] at h
    rw [Nat.succ_add]
    split at h
    · next u hu => rw [run_succ hu, ih h]
    · cases h
    · cases h

end

/-- So many steps from `s` lead to `t`, and until then the encoder is busy and has not answered. -/
structure SendsUntil (n : Nat) (s t : State) : Prop where
  ends : Host.Core.run core n s = .next t
  busy : ∀ k, k < n → ∃ u, Host.Core.run core k s = .next u ∧ u.txBusy = true ∧ u.rsp = none

theorem SendsUntil.refl (s : State) : SendsUntil 0 s s :=
  ⟨rfl, fun _ hk => absurd hk (Nat.not_lt_zero _)⟩

theorem SendsUntil.cons {n : Nat} {s t u : State} (h : step s = .next t) (hb : s.txBusy = true)
    (hr : s.rsp = none) (h' : SendsUntil n t u) : SendsUntil (n + 1) s u := by
  refine ⟨(run_succ (M := core) h n).trans h'.ends, fun k hk => ?_⟩
  cases k with
  | zero => exact ⟨s, rfl, hb, hr⟩
  | succ k =>
    rw [run_succ (M := core) h]
    exact h'.busy k (by omega)

theorem SendsUntil.trans {m n : Nat} {s t u : State} (h : SendsUntil m s t)
    (h' : SendsUntil n t u) : SendsUntil (m + n) s u := by
  refine ⟨(run_add (M := core) h.ends n).trans h'.ends, fun k hk => ?_⟩
  rcases Nat.lt_or_ge k m with hkm | hmk
  · exact h.busy k hkm
  · obtain ⟨j, rfl⟩ := Nat.exists_eq_add_of_le hmk
    rw [run_add (M := core) h.ends]
    exact h'.busy j (by omega)

/-! ## Ticks (00_scope.md R15, 41_encoder.md R135) -/

/-- How many ticks these segments last. -/
def ticksOf (tickUs : Nat) (segs : List Segment) : Nat := (segs.map (·.dur / tickUs)).sum

theorem addsUp_ticksOf (tickUs : Nat) : AddsUp (ticksOf tickUs) :=
  ⟨rfl, fun a b _ => by simp [ticksOf]⟩

/-- On a machine of the model a tick divides every emitted duration (log 11). -/
theorem tickUs_dvd {p : Params} {d : Nat} (hp : p.ok = true) (hd : d ∈ Config.emitted) :
    p.tickUs ∣ d := by
  simp only [Params.ok, Bool.and_eq_true, List.all_eq_true, beq_iff_eq] at hp
  obtain ⟨⟨⟨⟨-, htick⟩, -⟩, -⟩, -⟩ := hp
  exact Nat.dvd_of_mod_eq_zero (htick d hd)

theorem tickUs_pos {p : Params} (hp : p.ok = true) : 0 < p.tickUs :=
  Nat.pos_of_dvd_of_pos (tickUs_dvd hp (d := 7000) (by decide)) (by decide)

/-- TX_TIMER holds the ticks of any emitted duration. -/
theorem toNat_timerFor {d : Nat} (hd : d ∈ Config.emitted) (tickUs : Nat) :
    (timerFor tickUs d).toNat = d / tickUs := by
  have hfits : ∀ e ∈ Config.emitted, e < 2 ^ 13 := by decide
  rw [timerFor, BitVec.toNat_ofNat,
    Nat.mod_eq_of_lt ((Nat.div_le_self _ _).trans_lt (hfits d hd))]

theorem mem_emitted_of_mem_frame {p : Payload} {g : Segment} (h : g ∈ frameSegments p) :
    g.dur ∈ Config.emitted := by
  have hhdr : ∀ g ∈ hdrSymbol, g.dur ∈ Config.emitted := by decide
  have hbit : ∀ b, ∀ g ∈ bitSymbol b, g.dur ∈ Config.emitted := by decide
  have htrail : ∀ g ∈ trailSymbol, g.dur ∈ Config.emitted := by decide
  rw [frameSegments, dataSegments_eq] at h
  simp only [List.mem_append, List.mem_flatMap] at h
  obtain (h | ⟨k, -, h⟩) | h := h
  · exact hhdr g h
  · exact hbit _ g h
  · exact htrail g h

theorem ticksOf_mul {tickUs : Nat} {segs : List Segment} (h : ∀ g ∈ segs, tickUs ∣ g.dur) :
    ticksOf tickUs segs * tickUs = totalDuration segs := by
  induction segs with
  | nil => exact Nat.zero_mul _
  | cons g rest ih =>
    obtain ⟨hg, hrest⟩ := List.forall_mem_cons.mp h
    calc ticksOf tickUs (g :: rest) * tickUs
        = g.dur / tickUs * tickUs + ticksOf tickUs rest * tickUs := Nat.add_mul _ _ _
      _ = totalDuration (g :: rest) := by rw [Nat.div_mul_cancel hg, ih hrest]; rfl

/-- A frame lasts T_frame / TICK_US ticks. -/
theorem ticksOf_frameSegments {p : Params} (hp : p.ok = true) (x : Payload) :
    ticksOf p.tickUs (frameSegments x) = frameTime x / p.tickUs := by
  rw [← totalDuration_frameSegments,
    ← ticksOf_mul fun g hg => tickUs_dvd hp (mem_emitted_of_mem_frame hg),
    Nat.mul_div_cancel _ (tickUs_pos hp)]

/-! ## The sequencer, segment by segment (41_encoder.md R135 to R141) -/

/-- A SEND in progress that nothing interferes with, before its response, on a machine of the model. -/
structure Sending (s : State) : Prop where
  ticking : Ticking s
  params  : s.par.ok = true
  rsp     : s.rsp = none

/-- These segments have been put on the line, and these are the encoder's registers after it. -/
def sent (segs : List Segment) (w : TxWork) (s : State) : State := { emit segs s with tx := w }

theorem sent_sent (a b : List Segment) (w v : TxWork) (s : State) :
    sent b v (sent a w s) = sent (a ++ b) v s := by
  rw [sent, sent, sent, emit_append]
  rfl

/-- The line and the encoder's registers are no part of what makes a SEND in progress. -/
theorem Sending.moved {s : State} (h : Sending s) (line : List Segment) (ir : Bool) (w : TxWork) :
    Sending { s with line := line, irOut := ir, tx := w } :=
  ⟨⟨h.ticking.rst, h.ticking.txBusy, h.ticking.tick, h.ticking.agents⟩, h.params, h.rsp⟩

theorem tickDown_eq {s : State} (h : s.rsp = none) : tickDown s =
    { s with line := lengthen s.par.tickUs s.line, tx := { s.tx with timer := s.tx.timer - 1 } } := by
  rw [tickDown, ← h]

/-- The ticks of a segment lengthen it, and the last one ends it. -/
theorem sendsUntil_timer {l : Bool} {rest : List Segment} (m : Nat) : ∀ {s : State} {x : Nat},
    Sending s → s.tx.state ≠ .idle → s.tx.timer.toNat = m + 1 → s.line = ⟨l, x⟩ :: rest →
    SendsUntil (m + 1) s (endSegment
      { s with
        line := ⟨l, x + (m + 1) * s.par.tickUs⟩ :: rest
        tx := { s.tx with timer := 0 } }) := by
  induction m with
  | zero =>
    intro s x h hs ht hl
    have ht1 : s.tx.timer = 1 := BitVec.eq_of_toNat_eq ht
    have hlast := step_tick_last h.ticking hs ht1
    rw [tickDown_eq h.rsp, ht1, hl] at hlast
    rw [Nat.zero_add, Nat.one_mul]
    exact .cons hlast h.ticking.txBusy h.rsp (.refl _)
  | succ m ih =>
    intro s x h hs ht hl
    have ht1 : s.tx.timer ≠ 1 := fun h1 => by simp [h1] at ht
    have hone := step_tick_inside h.ticking hs ht1
    rw [tickDown_eq h.rsp, hl] at hone
    have hcount : (s.tx.timer - 1).toNat = m + 1 := by bv_omega
    have hrest := ih (h.moved (⟨l, x + s.par.tickUs⟩ :: rest) s.irOut
      { s.tx with timer := s.tx.timer - 1 }) hs hcount rfl
    have hdur : x + s.par.tickUs + (m + 1) * s.par.tickUs = x + (m + 1 + 1) * s.par.tickUs := by
      rw [Nat.succ_mul (m + 1), Nat.add_assoc, Nat.add_comm s.par.tickUs]
    rw [hdur] at hrest
    exact .cons hone h.ticking.txBusy h.rsp hrest

section
variable {s : State} (h : Sending s)
include h

/-- A whole segment: its ticks end it, with its duration on the line. -/
theorem Sending.runs_segment (segs : List Segment) (w : TxWork) {st : TxState} {d : Nat}
    (hst : st ≠ .idle) (hd : d ∈ Config.emitted) :
    SendsUntil (d / s.par.tickUs) (enterSegment st d (sent segs w s))
      (endSegment (sent (segs ++ [⟨markState st, d⟩]) { w with state := st, timer := 0 } s)) := by
  have hpos : 1 ≤ d / s.par.tickUs := by
    rw [← toNat_timerFor hd]
    exact (timerFor_bounds h.params hd).1
  obtain ⟨m, hm⟩ := Nat.exists_eq_add_of_le' hpos
  have hdur : (m + 1) * s.par.tickUs = d := by
    rw [← hm, Nat.div_mul_cancel (tickUs_dvd h.params hd)]
  have hrun := sendsUntil_timer m
    (h.moved (⟨markState st, 0⟩ :: (sent segs w s).line) (markState st)
      { w with state := st, timer := timerFor s.par.tickUs d })
    hst ((toNat_timerFor hd _).trans hm) rfl
  simp only [hdur, Nat.zero_add] at hrun
  rw [← sent_sent, hm]
  exact hrun

/-- A data bit out of the top of TX_SR: its mark and its space (R138 to R140). -/
theorem Sending.runs_bit (segs : List Segment) (w : TxWork) :
    SendsUntil (ticksOf s.par.tickUs (bitSymbol (w.sr.getLsbD 39))) (startBit (sent segs w s))
      (endSegment (sent (segs ++ bitSymbol (w.sr.getLsbD 39))
        { w with state := .bitS, timer := 0, sr := w.sr <<< 1, bits := w.bits - 1 } s)) := by
  have hmark := h.runs_segment segs w (st := .bitM) (d := markOf (w.sr.getLsbD 39)) (by decide)
    (by cases w.sr.getLsbD 39 <;> decide)
  rw [endSegment_bitM rfl] at hmark
  have hspace := h.runs_segment (segs ++ [⟨true, markOf (w.sr.getLsbD 39)⟩])
    { w with state := .bitM, timer := 0, sr := w.sr <<< 1, bits := w.bits - 1 } (st := .bitS)
    (d := 840) (by decide) (by decide)
  rw [List.append_assoc] at hspace
  exact hmark.trans hspace

end

/-- The encoder's registers at the end of a data bit with k more to send, from bit k - 1 down. -/
def bitsLeft (p : Payload) (k frames : Nat) : TxWork :=
  { state := .bitS, timer := 0, sr := p <<< (40 - k), bits := BitVec.ofNat 6 k, frames := frames }

section
variable (p : Payload) {k : Nat} (f : Nat)

/-- The next bit is at the top of TX_SR. -/
theorem getLsbD_sr_bitsLeft (hk : k < 40) : (bitsLeft p (k + 1) f).sr.getLsbD 39 = p.getLsbD k := by
  rw [bitsLeft, BitVec.getLsbD_shiftLeft, decide_eq_true (by decide), decide_eq_false (by omega)]
  simp only [Bool.not_false, Bool.true_and]
  congr 1
  omega

/-- Sending it leaves one bit less (R139). -/
theorem bitsLeft_next (hk : k < 40) : { bitsLeft p (k + 1) f with
    sr := (bitsLeft p (k + 1) f).sr <<< 1, bits := (bitsLeft p (k + 1) f).bits - 1 } =
      bitsLeft p k f := by
  have hsr : (p <<< (40 - (k + 1))) <<< 1 = p <<< (40 - k) := by
    rw [← BitVec.shiftLeft_add]
    congr 1
    omega
  have hbits : BitVec.ofNat 6 (k + 1) - 1 = BitVec.ofNat 6 k := by bv_omega
  simp only [bitsLeft, hsr, hbits]

theorem bits_bitsLeft_ne_zero (hk : k < 40) : (bitsLeft p (k + 1) f).bits ≠ 0 := by
  rw [bitsLeft]
  bv_omega

end

/-- The data bits that are left, one after another (R138 to R140). -/
theorem Sending.runs_data {s : State} (h : Sending s) (p : Payload) (f k : Nat) :
    ∀ segs : List Segment, k ≤ 40 →
    SendsUntil (ticksOf s.par.tickUs (dataSegments k p)) (endSegment (sent segs (bitsLeft p k f) s))
      (endSegment (sent (segs ++ dataSegments k p) (bitsLeft p 0 f) s)) := by
  induction k with
  | zero =>
    intro segs _
    rw [dataSegments, List.append_nil]
    exact .refl _
  | succ k ih =>
    intro segs hk
    have hbit := h.runs_bit segs (bitsLeft p (k + 1) f)
    rw [← endSegment_bitS_more rfl (bits_bitsLeft_ne_zero p f hk), getLsbD_sr_bitsLeft p f hk] at hbit
    have hnext := bitsLeft_next p f hk
    have hrest := ih (segs ++ bitSymbol (p.getLsbD k)) (Nat.le_of_succ_le hk)
    rw [← hnext, List.append_assoc] at hrest
    rw [dataSegments, (addsUp_ticksOf _).append _ _ rfl]
    exact hbit.trans hrest

/-- The ticks of a frame, symbol by symbol. -/
theorem ticksOf_frame_parts (tickUs : Nat) (p : Payload) : ticksOf tickUs (frameSegments p) =
    7000 / tickUs + (4000 / tickUs + (ticksOf tickUs (dataSegments 40 p) + 1860 / tickUs)) := by
  simp [ticksOf, frameSegments, hdrSymbol, trailSymbol, Config.frameBits, Config.hdrMark,
    Config.hdrSpace, Config.trailSpace, Config.rptGap, Config.bitSpace]

/-- The encoder's registers at the end of TRAIL. -/
def frameSent (frames : Nat) : TxWork :=
  { state := .trail, timer := 0, sr := 0, bits := 0, frames := frames }

theorem bitsLeft_all (p : Payload) (f : Nat) : bitsLeft p 40 f =
    { state := .bitS, timer := 0, sr := p, bits := 40, frames := f } := by
  rw [bitsLeft, Nat.sub_self, BitVec.shiftLeft_zero]
  rfl

/-- After the last data bit TX_SR is shifted out. -/
theorem bitsLeft_zero (p : Payload) (f : Nat) :
    { bitsLeft p 0 f with state := .trail, timer := 0 } = frameSent f := by
  have hsr : p <<< 40 = 0 := BitVec.shiftLeft_eq_zero le_rfl
  rw [bitsLeft, Nat.sub_zero, hsr]
  rfl

/-- A frame, from its header mark to the end of TRAIL (R136 to R141). -/
theorem Sending.runs_frame {s : State} (h : Sending s) (segs : List Segment) (w : TxWork) :
    SendsUntil (ticksOf s.par.tickUs (frameSegments (payloadOf s.cw))) (startFrame (sent segs w s))
      (endSegment (sent (segs ++ frameSegments (payloadOf s.cw)) (frameSent w.frames) s)) := by
  have hmark := h.runs_segment segs { w with sr := payloadOf s.cw, bits := 40 } (st := .hdrM)
    (d := 7000) (by decide) (by decide)
  rw [endSegment_hdrM rfl] at hmark
  have hspace := h.runs_segment (segs ++ [⟨true, 7000⟩])
    { w with state := .hdrM, timer := 0, sr := payloadOf s.cw, bits := 40 }
    (st := .hdrS) (d := 4000) (by decide) (by decide)
  have hdata := h.runs_data (payloadOf s.cw) w.frames 40 (segs ++ hdrSymbol) le_rfl
  have hfirst : endSegment (sent (segs ++ hdrSymbol) (bitsLeft (payloadOf s.cw) 40 w.frames) s) =
      endSegment (sent (segs ++ hdrSymbol)
        { w with state := .hdrS, timer := 0, sr := payloadOf s.cw, bits := 40 } s) := by
    rw [endSegment_bitS_more rfl (bits_bitsLeft_ne_zero _ _ (by decide)), endSegment_hdrS rfl,
      bitsLeft_all]
    rfl
  have htrail := h.runs_segment (segs ++ hdrSymbol ++ dataSegments 40 (payloadOf s.cw))
    (bitsLeft (payloadOf s.cw) 0 w.frames) (st := .trail) (d := 1860) (by decide) (by decide)
  rw [← endSegment_bitS_last rfl rfl, bitsLeft_zero, List.append_assoc segs,
    List.append_assoc segs] at htrail
  rw [List.append_assoc] at hspace
  rw [hfirst, List.append_assoc] at hdata
  rw [ticksOf_frame_parts]
  exact hmark.trans (hspace.trans (hdata.trans htrail))

/-- All frames, and the response after the last (R141). -/
theorem Sending.runs_frames {s : State} (h : Sending s) (n : Nat) :
    ∀ (segs : List Segment) (w : TxWork), w.frames = n + 1 →
    SendsUntil (ticksOf s.par.tickUs (framesSegments (n + 1) (payloadOf s.cw)))
      (startFrame (sent segs w s))
      (respond .ok 0 { sent (segs ++ framesSegments (n + 1) (payloadOf s.cw)) idleTx s with
        txBusy := false }) := by
  induction n with
  | zero =>
    intro segs w hf
    have hrun := h.runs_frame segs w
    rw [hf, endSegment_trail_last (s := sent _ (frameSent 1) s) rfl rfl] at hrun
    rw [framesSegments, framesSegments, List.append_nil]
    exact hrun
  | succ n ih =>
    intro segs w hf
    have hrun := h.runs_frame segs w
    rw [hf, endSegment_trail_more (s := sent _ (frameSent (n + 2)) s) rfl
      (Nat.succ_ne_zero n)] at hrun
    have hrest := ih (segs ++ frameSegments (payloadOf s.cw)) (frameSent (n + 1)) rfl
    rw [List.append_assoc] at hrest
    rw [framesSegments, (addsUp_ticksOf _).append _ _ (lastLevel_frameSegments _ _)]
    exact hrun.trans hrest

/-! ## The step: acceptance, and what the agents leave alone -/

/-- At the tick level an accepted SEND starts the sequencer (R123, R136). -/
theorem step_acceptSend {s : State} {w : OpWord} {r : Nat} {rest : List OpWord}
    (hr : s.rst = false) (hb : s.busy = false) (hl : s.level = .tick) (hh : s.host = w :: rest)
    (hw : decodeOp s.par.rptW w = .send r) :
    step s = .next (agentsMove (startSend r (noResponse { s with host := rest }))) := by
  refine step_of_codecStep ?_
  rw [codecStep_accept hr hb hh, hw]
  exact acceptOp_send r hl

/-- What another agent cannot reach in one move (log 2). -/
theorem agentsMove_registers (s : State) : (agentsMove s).cw = s.cw ∧ (agentsMove s).res = s.res ∧
    (agentsMove s).dec = s.dec ∧ (agentsMove s).tx = s.tx ∧ (agentsMove s).irOut = s.irOut ∧
    (agentsMove s).line = s.line := by
  obtain ⟨h, r, t, l, o, b, a, e⟩ := agentsMove_codec s
  rw [e]
  exact ⟨rfl, rfl, rfl, rfl, rfl, rfl⟩

/-! ## The obligations -/

/-- Settles O45: acceptance starts the first frame, and the frames run tick by tick
(`Sending.runs_frames`) as long as they last (`ticksOf_frameSegments`). -/
theorem tickLevelSendAgreesWithTheOperation :
    Obligations.TickLevelSendAgreesWithTheOperation := by
  intro s w r rest hp hr hb hl hk ha hh hw
  have hstep := step_acceptSend hr hb hl hh hw
  rw [agentsMove_nil (s := startSend r (noResponse { s with host := rest })) ha] at hstep
  have hsending : Sending { s with host := rest, rsp := none, txBusy := true } :=
    ⟨⟨hr, rfl, hk, ha⟩, hp, rfl⟩
  have hrun := hsending.runs_frames r [] { s.tx with frames := r + 1 } rfl
  have hticks : ticksOf s.par.tickUs (framesSegments (r + 1) (payloadOf s.cw)) =
      (r + 1) * (frameTime (s.cw.setWidth 40) / s.par.tickUs) := by
    rw [(addsUp_ticksOf _).frames, ticksOf_frameSegments hp]
    rfl
  rw [← hticks, Nat.add_comm 1]
  refine ⟨(run_succ (M := core) hstep _).trans hrun.ends, fun k h1 hlast => ?_⟩
  obtain ⟨j, rfl⟩ := Nat.exists_eq_add_of_le' h1
  rw [run_succ (M := core) hstep]
  exact hrun.busy j (Nat.lt_of_succ_lt_succ hlast)

/-- Settles O22: each quantity adds up over the symbols of the frames (`AddsUp.frames`), and the capture
has the entries of its frames. -/
theorem sendLastsAsLongAsItsFrames : Obligations.SendLastsAsLongAsItsFrames := by
  intro r s
  refine ⟨_, sendTrace (payloadOf s.cw) r, exec_send r s, ?_, ?_, ?_, ?_, ?_, ?_, ?_, ?_⟩
  · simp [State.trace]
  · rw [sendTrace, addsUp_totalDuration.frames, totalDuration_frameSegments]
    rfl
  · rw [sendTrace, addsUp_length.frames_of_bit (c := 2) (by decide), Nat.mul_comm]
    rfl
  · rw [sendTrace, (addsUp_countP _).frames_of_bit (c := 1) (by decide), Nat.mul_comm]
    rfl
  · rw [sendTrace, addsUp_risingEdges.frames_of_bit (c := 1) (by decide), Nat.mul_comm]
    rfl
  · rw [sendTrace, addsUp_fallingEdges.frames_of_bit (c := 1) (by decide), Nat.mul_comm]
    rfl
  · exact length_captureOf_frames _ _ _
  · exact fun hw => getLast?_captureOf_frames hw _ _

/-- Settles O21: the trace is R + 1 frames, which end in a space, and R is the low bits of data. -/
theorem sendPutsTheTraceOnTheLine : Obligations.SendPutsTheTraceOnTheLine := by
  have hdecode : ∀ (n : Nat) (w : OpWord), w.extractLsb' 68 4 = 5 →
      decodeOp n w = .send ((w.extractLsb' 0 64).toNat % 2 ^ min n 64) := fun _ _ => decodeOp_send
  refine ⟨fun w hopc => ?_, hdecode, fun r s => ⟨idleTx, rfl, ?_⟩⟩
  · rw [hdecode 8 w hopc, BitVec.extractLsb'_toNat, BitVec.extractLsb'_toNat]
    exact congrArg Instr.send (Nat.mod_mod_of_dvd _ (by decide))
  · rw [exec_send, emit, sendTrace, lastLevel_frames, framesSegments_eq, frameSegments,
      Config.frameBits, dataSegments_eq]
    simp only [Nat.add_one_sub_one, payloadOf_getLsbD]
    rfl

/-- Settles O40, from what a step of a SEND and a step of a DECODE in progress leave alone
(`stepSend_frame`, `stepDecode_frame`). -/
theorem nothingIsAcceptedWhileBusy : Obligations.NothingIsAcceptedWhileBusy := by
  intro s hr hb
  cases htx : s.txBusy with
  | true =>
    obtain ⟨acw, ares, adec, -⟩ := agentsMove_registers (stepSend s)
    obtain ⟨ecw, eres, edec, -, -, -, ehost, -, -, -, eagents, -, -⟩ := stepSend_frame s
    exact ⟨_, step_of_codecStep (codecStep_tx hr htx), acw.trans ecw,
      fun ha => by rw [agentsMove_nil (eagents.trans ha), ehost],
      fun _ => ⟨ares.trans eres, adec.trans edec⟩, nofun⟩
  | false =>
    have hdec : s.decBusy = true := by rwa [State.busy, htx, Bool.false_or] at hb
    obtain ⟨acw, -, -, atx, air, aline⟩ := agentsMove_registers (stepDecode s)
    obtain ⟨r, b, d, p, e⟩ := stepDecode_frame s
    refine ⟨_, step_of_codecStep (codecStep_dec hr htx hdec), ?_⟩
    rw [acw, atx, air, aline, e]
    exact ⟨rfl, fun ha => by rw [agentsMove_nil (by exact ha)], nofun, fun _ => ⟨rfl, rfl, rfl⟩⟩

/-- Settles O43: acceptance starts the sequencer (`step_acceptSend`). -/
theorem acceptedSendLoadsTheSequencer : Obligations.AcceptedSendLoadsTheSequencer :=
  ⟨fun d => by rw [timerFor, Nat.div_one],
    fun _ _ _ _ hr hb hl hh hw => step_acceptSend hr hb hl hh hw⟩

end Sys2Proof.Machine
end

section
/-! The statements of the decoder (42_decoder.md): the capture of a SEND decoded, how a DECODE ends, and
the end of its bit loop. -/

namespace Sys2Proof.Machine

/-! ## The entries of a capture of a SEND (20_memory.md R53, R54) -/

/-- A list repeated reads as the list, copy by copy. -/
theorem getElem?_flatten_replicate {α : Type} (l : List α) (n : Nat) : ∀ {f j : Nat}, f < n →
    j < l.length → (List.replicate n l).flatten[l.length * f + j]? = l[j]? := by
  induction n with
  | zero => exact fun hf => absurd hf (Nat.not_lt_zero _)
  | succ n ih =>
    intro f j hf hj
    rw [List.replicate_succ, List.flatten_cons]
    cases f with
    | zero => rw [Nat.mul_zero, Nat.zero_add, List.getElem?_append_left hj]
    | succ f =>
      rw [Nat.mul_succ, Nat.add_right_comm, List.getElem?_append_right (Nat.le_add_left _ _),
        Nat.add_sub_cancel, ih (Nat.lt_of_succ_lt_succ hf) hj]

theorem length_capturedFrame (p : Payload) : (capturedFrame p).length = 82 := by
  simp [capturedFrame, capturedBits, List.length_flatMap]

/-- The captured mark of bit n - k. -/
theorem capturedBits_mark (p : Payload) (n : Nat) : ∀ {k : Nat}, k ≤ n →
    (capturedBits p n)[2 * k]? = some (markOf (p.getLsbD (n - k))) := by
  induction n with
  | zero => intro k hk; rw [Nat.le_zero.mp hk]; rfl
  | succ n ih =>
    intro k hk
    rw [capturedBits_succ]
    cases k with
    | zero => rfl
    | succ k =>
      rw [Nat.mul_succ, Nat.succ_sub_succ]
      exact ih (Nat.le_of_succ_le_succ hk)

/-- The captured space behind it: the inter-bit space, or the end of the frame. -/
theorem capturedBits_space (p : Payload) (n : Nat) : ∀ {k : Nat}, k ≤ n →
    (capturedBits p n)[2 * k + 1]? = some (if k < n then 840 else 2700) := by
  induction n with
  | zero => intro k hk; rw [Nat.le_zero.mp hk]; rfl
  | succ n ih =>
    intro k hk
    rw [capturedBits_succ]
    cases k with
    | zero => rfl
    | succ k =>
      rw [Nat.mul_succ, if_congr Nat.succ_lt_succ_iff rfl rfl]
      exact ih (Nat.le_of_succ_le_succ hk)

/-- A buffer that holds a captured frame from index `b` on, its closing space left out, has a
well-formed frame there. -/
theorem frameAt_of_capturedFrame {buf : Memory} {b : Nat} {p : Payload}
    (h : ∀ j, j < 81 → (capturedFrame p)[j]? = some (buf.read (b + j))) (tol : Nat) :
    FrameAt tol buf b p := by
  have hentry : ∀ {j d : Nat}, j < 81 → (capturedFrame p)[j]? = some d →
      matchDur tol (buf.read (b + j)) d = true := by
    intro j d hj hd
    rw [Option.some.inj ((h j hj).symm.trans hd)]
    exact matchDur_self tol d
  refine ⟨hentry (j := 0) (by decide) rfl, hentry (j := 1) (by decide) rfl, fun k hk => ?_,
    fun k hk => ?_⟩
  · rw [Nat.add_assoc b 2]
    refine hentry (by omega) ?_
    rw [Nat.add_comm 2]
    exact capturedBits_mark p 39 (by omega)
  · rw [Nat.add_assoc b 3]
    refine hentry (by omega) ?_
    rw [show 3 + 2 * k = 2 * k + 1 + 2 by omega]
    exact (capturedBits_space p 39 hk.le).trans (by rw [if_pos hk])

/-- Entries that fit their width and are few enough to be declared are declared as they are. -/
theorem declarable_of_le {p : Params} {es : List Nat} (hw : 13 ≤ p.durW) (hd : ∀ d ∈ es, d ≤ 7000)
    (hlen : es.length < 2 ^ p.lenW) : declarable p es = es := by
  rw [declarable, List.take_of_length_le (Nat.le_sub_one_of_lt hlen)]
  exact (List.map_congr_left fun d h => entryOf_of_le hw (hd d h)).trans (List.map_id' _)

section
variable {es : List Nat} {p : Payload} {n : Nat}
  (hes : es <+: (List.replicate n (capturedFrame p)).flatten)
include hes

/-- No entry of captured frames is longer than a header mark. -/
theorem le_of_mem_capturedFrames {d : Nat} (hd : d ∈ es) : d ≤ 7000 := by
  obtain ⟨l, hl, hdl⟩ := List.mem_flatten.mp (hes.subset hd)
  rw [List.eq_of_mem_replicate hl] at hdl
  exact le_of_mem_capturedFrame hdl

/-- A buffer captured from frames reads frame by frame, as far as it goes. -/
theorem read_capturedFrames {f j : Nat} (hf : f < n) (hj : j < 82) (hi : 82 * f + j < es.length) :
    (capturedFrame p)[j]? = some ((Memory.ofEntries 0 es).read (82 * f + j)) := by
  have hcopy := getElem?_flatten_replicate (capturedFrame p) n hf (j := j)
    (by rwa [length_capturedFrame])
  have hmem := Memory.read_ofEntries es 0 (82 * f + j)
  obtain ⟨rest, hrest⟩ := hes
  rw [length_capturedFrame, ← hrest, List.getElem?_append_left hi] at hcopy
  rw [Nat.zero_add] at hmem
  rw [← hcopy, hmem, List.getD_eq_getElem?_getD, List.getElem?_eq_getElem hi, Option.getD_some]

end

/-- A state whose buffer was captured from n + 1 frames of payload `p`, the last entry present or cut
off, decodes to `p` (42_decoder.md R169). -/
theorem exec_decode_captured {s : State} {es : List Nat} {p : Payload} {n : Nat}
    (ht : s.par.tolPct ≤ 50) (hw : 13 ≤ s.par.durW) (hn : 82 * (n + 1) < 2 ^ s.par.lenW)
    (hes : es <+: (List.replicate (n + 1) (capturedFrame p)).flatten)
    (hlen : es.length = 82 * (n + 1) ∨ es.length = 82 * (n + 1) - 1 ∧ 1 ≤ n) :
    ∃ u, exec .decode (applyMove (.capture es false) s) = .next u ∧
      u.rsp = some { status := .ok, rdata := 0 } ∧
      u.res = { ok := true, value := p.setWidth 64, bits := 40, addr := 0, cmd := 0,
                failCode := 0 } := by
  have hdecl : declarable s.par es = es :=
    declarable_of_le hw (fun _ => le_of_mem_capturedFrames hes) (by omega)
  apply lastFrameWins (applyMove (.capture es false) s) n (fun _ => p) ht rfl <;>
    simp only [applyMove, hdecl]
  · omega
  · omega
  · intro f hf
    exact frameAt_of_capturedFrame
      (fun j hj => read_capturedFrames hes (by omega) (by omega) (by omega)) _
  · intro f hf
    have hgap := read_capturedFrames hes (f := f) (j := 81) (by omega) (by decide) (by omega)
    rw [← Option.some.inj ((capturedBits_space p 39 (k := 39) le_rfl).symm.trans hgap)]
    exact matchDur_self _ _

/-! ## What an entry reads as (42_decoder.md R158 to R166) -/

section
variable {tol m : Nat}

theorem classifyMark_zero (h : matchDur tol m 720 = true) : classifyMark tol m = some false :=
  if_pos h

theorem classifyMark_one (h0 : matchDur tol m 720 = false) (h : matchDur tol m 2400 = true) :
    classifyMark tol m = some true :=
  (if_neg (Bool.eq_false_iff.mp h0)).trans (if_pos h)

theorem classifyMark_none (h0 : matchDur tol m 720 = false) (h : matchDur tol m 2400 = false) :
    classifyMark tol m = none :=
  (if_neg (Bool.eq_false_iff.mp h0)).trans (if_neg (Bool.eq_false_iff.mp h))

theorem classifySpace_between (h0 : matchDur tol m 2700 = false) (h : matchDur tol m 840 = true) :
    classifySpace tol m = some false :=
  (if_neg (Bool.eq_false_iff.mp h0)).trans (if_pos h)

theorem classifySpace_none (h0 : matchDur tol m 2700 = false) (h : matchDur tol m 840 = false) :
    classifySpace tol m = none :=
  (if_neg (Bool.eq_false_iff.mp h0)).trans (if_neg (Bool.eq_false_iff.mp h))

end

/-- A bit of value 0 is the shift alone. -/
theorem pushBit_zero (w : DecWork) : pushBit false w =
    { w with acc := w.acc <<< 1, offset := w.offset + 1, nbits := w.nbits + 1 } := by
  simp [pushBit]

theorem cleanEnd_eq_true {w : DecWork} :
    cleanEnd w = true ↔ w.nbits = 40 ∧ w.lenQ ≤ w.offset + 1 := by
  simp [cleanEnd, pastEnd]

section
variable {w : DecWork} {i tol m n : Nat}

/-- An entry of the second header is missing: past the end, or outside its window (R164). -/
theorem absent_eq_true : (pastEnd w i || !matchDur tol m n) = true ↔
    w.lenQ ≤ i ∨ matchDur tol m n = false := by
  simp [pastEnd]

theorem absent_eq_false : (pastEnd w i || !matchDur tol m n) = false ↔
    i < w.lenQ ∧ matchDur tol m n = true := by
  simp [pastEnd]

end

/-! ## How a DECODE ends (42_decoder.md R152 to R163, 60_exceptions.md R193) -/

section
variable {tol : Nat} {buf : Memory} {w : DecWork}

theorem decodeBuffer_overflow (h : w.ovfQ = true) :
    decodeBuffer tol buf w = (.failure .overflow, w) :=
  if_pos h

theorem decodeBuffer_short (h : w.ovfQ = false) (hlen : w.lenQ < 82) :
    decodeBuffer tol buf w = (.failure .short, w) := by
  rw [decodeBuffer, h]
  exact if_pos hlen

variable (h : w.ovfQ = false) (hlen : 82 ≤ w.lenQ)
include h hlen

theorem decodeBuffer_badHdrMark (hm : matchDur tol (buf.read 0) 7000 = false) :
    decodeBuffer tol buf w = (.failure .hdrMark, initWork w) := by
  have hlong : ¬ w.lenQ < Config.minLen := Nat.not_lt_of_le hlen
  simp [decodeBuffer, h, hlong, Config.hdrMark, hm]

theorem decodeBuffer_badHdrSpace (hm : matchDur tol (buf.read 0) 7000 = true)
    (hs : matchDur tol (buf.read 1) 4000 = false) :
    decodeBuffer tol buf w = (.failure .hdrSpace, advance 1 (initWork w)) := by
  have hlong : ¬ w.lenQ < Config.minLen := Nat.not_lt_of_le hlen
  simp [decodeBuffer, h, hlong, Config.hdrMark, Config.hdrSpace, hm, hs]

/-- Behind a good header the bit loop takes over. -/
theorem decodeBuffer_loop (hm : matchDur tol (buf.read 0) 7000 = true)
    (hs : matchDur tol (buf.read 1) 4000 = true) : decodeBuffer tol buf w =
      decodeLoop tol buf (w.lenQ / 2 + 1) (advance 1 (advance 1 (initWork w))) := by
  have hlong : ¬ w.lenQ < Config.minLen := Nat.not_lt_of_le hlen
  simp [decodeBuffer, h, hlong, Config.hdrMark, Config.hdrSpace, hm, hs]

end

/-- A DECODE ends in success or in a failure, as its algorithm does. -/
theorem exec_decode_cases (s : State) :
    ((decodeBuffer s.par.tolPct s.buf (sampleInputs s)).1 = .success ∧ exec .decode s =
      .next (decodeOk { s with dec := (decodeBuffer s.par.tolPct s.buf (sampleInputs s)).2 })) ∨
    (∃ c, (decodeBuffer s.par.tolPct s.buf (sampleInputs s)).1 = .failure c ∧ exec .decode s =
      .next (decodeFail c { s with dec := (decodeBuffer s.par.tolPct s.buf (sampleInputs s)).2 })) := by
  rw [exec_decode]
  obtain ⟨he, e⟩ | ⟨c, he, e⟩ := finishDecode_cases _ _
  · exact .inl ⟨he, congrArg _ e⟩
  · exact .inr ⟨c, he, congrArg _ e⟩

/-- A DECODE that fails writes RES_OK and FAILCODE, and answers FAIL. -/
theorem exec_decode_fails {s : State} {r : DecodeEnd × DecWork} {c : DecodeFailure}
    (h : decodeBuffer s.par.tolPct s.buf (sampleInputs s) = r) (hr : r.1 = .failure c) :
    ∃ t, exec .decode s = .next t ∧ t.res = { s.res with ok := false, failCode := failureCode c } ∧
      t.rsp = some { status := .fail, rdata := 0 } := by
  refine ⟨_, exec_decode s, ?_⟩
  rw [h, hr]
  exact ⟨rfl, rfl⟩

/-- The end is none of the two that CHECK gives (42_decoder.md R152, R153). -/
def PastCheck (e : DecodeEnd) : Prop := e ≠ .failure .short ∧ e ≠ .failure .overflow

theorem PastCheck.failureCode_ne {c : DecodeFailure} (h : PastCheck (.failure c)) :
    failureCode c ≠ 1 ∧ failureCode c ≠ 10 := by
  obtain ⟨hshort, hoverflow⟩ := h
  cases c with
  | short => exact absurd rfl hshort
  | overflow => exact absurd rfl hoverflow
  | _ => decide

/-! ## The bit loop, pass by pass (42_decoder.md R158 to R168) -/

section
variable {tol : Nat} {buf : Memory} {n : Nat} {w : DecWork} {b : Bool}
  (h : budgetSpent w = false) (h1 : pastEnd w w.offset = false)
  (h2 : classifyMark tol (buf.read w.offset) = some b) (h3 : cleanEnd (pushBit b w) = false)
include h h1 h2 h3

/-- A pass over a bit with no entry behind its mark. -/
theorem decodeLoop_noSpace (h4 : pastEnd (pushBit b w) (pushBit b w).offset = true) :
    decodeLoop tol buf (n + 1) w = (.failure .overrun, pushBit b w) := by
  simp [decodeLoop, h, h1, h2, h3, h4]

variable (h4 : pastEnd (pushBit b w) (pushBit b w).offset = false)
include h4

/-- A pass over a bit with a wrong space behind its mark. -/
theorem decodeLoop_badSpace (h5 : classifySpace tol (buf.read (pushBit b w).offset) = none) :
    decodeLoop tol buf (n + 1) w = (.failure .space, pushBit b w) := by
  simp [decodeLoop, h, h1, h2, h3, h4, h5]

variable (h5 : classifySpace tol (buf.read (pushBit b w).offset) = some true)
include h5

/-- A pass over a bit and a repeat boundary with no header mark behind it. -/
theorem decodeLoop_badResyncMark
    (h6 : (pastEnd (pushBit b w) ((pushBit b w).offset + 1) ||
      !matchDur tol (buf.read ((pushBit b w).offset + 1)) Config.hdrMark) = true) :
    decodeLoop tol buf (n + 1) w = (.failure .resyncMark, discardBits (pushBit b w)) := by
  simp only [decodeLoop, h, h1, h2, h3, h4, h5, Bool.false_eq_true, if_false]
  exact if_pos h6

/-- A pass over a bit and a repeat boundary with a header mark and no header space behind it. -/
theorem decodeLoop_badResyncSpace
    (h6 : (pastEnd (pushBit b w) ((pushBit b w).offset + 1) ||
      !matchDur tol (buf.read ((pushBit b w).offset + 1)) Config.hdrMark) = false)
    (h7 : (pastEnd (pushBit b w) ((pushBit b w).offset + 2) ||
      !matchDur tol (buf.read ((pushBit b w).offset + 2)) Config.hdrSpace) = true) :
    decodeLoop tol buf (n + 1) w = (.failure .resyncSpace, discardBits (pushBit b w)) := by
  simp only [decodeLoop, h, h1, h2, h3, h4, h5, Bool.false_eq_true, if_false]
  exact (if_neg (Bool.eq_false_iff.mp h6)).trans (if_pos h7)

/-- A pass over a bit and a repeat boundary with a good header behind it (`decodeLoop_boundary`). -/
theorem decodeLoop_resync
    (h6 : (pastEnd (pushBit b w) ((pushBit b w).offset + 1) ||
      !matchDur tol (buf.read ((pushBit b w).offset + 1)) Config.hdrMark) = false)
    (h7 : (pastEnd (pushBit b w) ((pushBit b w).offset + 2) ||
      !matchDur tol (buf.read ((pushBit b w).offset + 2)) Config.hdrSpace) = false) :
    decodeLoop tol buf (n + 1) w = decodeLoop tol buf n (advance 3 (discardBits (pushBit b w))) := by
  obtain ⟨hin, hmark⟩ := absent_eq_false.mp h6
  obtain ⟨hin', hspace⟩ := absent_eq_false.mp h7
  exact decodeLoop_boundary h h1 h2 h3 h4 h5 (pastEnd_eq_false.mpr hin) hmark
    (pastEnd_eq_false.mpr hin') hspace

end

/-- A pass of the bit loop ends it the same way however many more are allowed, with no code of CHECK; or
it goes on at least two entries further, having found the second of them within the buffer. -/
theorem decodeLoop_turn (tol : Nat) (buf : Memory) (w : DecWork) :
    (∃ r, (∀ n, decodeLoop tol buf (n + 1) w = r) ∧ PastCheck r.1) ∨
    (∃ w', (∀ n, decodeLoop tol buf (n + 1) w = decodeLoop tol buf n w') ∧ w'.lenQ = w.lenQ ∧
      w.offset + 2 ≤ w'.offset ∧ w.offset + 1 < w.lenQ) := by
  cases h : budgetSpent w with
  | true => exact .inl ⟨_, fun _ => decodeLoop_spent h, nofun, nofun⟩
  | false =>
  cases h1 : pastEnd w w.offset with
  | true => exact .inl ⟨_, fun _ => decodeLoop_noMark h h1, nofun, nofun⟩
  | false =>
  cases h2 : classifyMark tol (buf.read w.offset) with
  | none => exact .inl ⟨_, fun _ => decodeLoop_badMark h h1 h2, nofun, nofun⟩
  | some b =>
  cases h3 : cleanEnd (pushBit b w) with
  | true => exact .inl ⟨_, fun _ => decodeLoop_clean h h1 h2 h3, nofun, nofun⟩
  | false =>
  cases h4 : pastEnd (pushBit b w) (pushBit b w).offset with
  | true => exact .inl ⟨_, fun _ => decodeLoop_noSpace h h1 h2 h3 h4, nofun, nofun⟩
  | false =>
  have hin : w.offset + 1 < w.lenQ := pastEnd_eq_false.mp h4
  cases h5 : classifySpace tol (buf.read (pushBit b w).offset) with
  | none => exact .inl ⟨_, fun _ => decodeLoop_badSpace h h1 h2 h3 h4 h5, nofun, nofun⟩
  | some gap =>
  cases gap with
  | false => exact .inr ⟨_, fun _ => decodeLoop_interBit h h1 h2 h3 h4 h5, rfl, le_rfl, hin⟩
  | true =>
  cases h6 : pastEnd (pushBit b w) ((pushBit b w).offset + 1) ||
      !matchDur tol (buf.read ((pushBit b w).offset + 1)) Config.hdrMark with
  | true => exact .inl ⟨_, fun _ => decodeLoop_badResyncMark h h1 h2 h3 h4 h5 h6, nofun, nofun⟩
  | false =>
  cases h7 : pastEnd (pushBit b w) ((pushBit b w).offset + 2) ||
      !matchDur tol (buf.read ((pushBit b w).offset + 2)) Config.hdrSpace with
  | true => exact .inl ⟨_, fun _ => decodeLoop_badResyncSpace h h1 h2 h3 h4 h5 h6 h7, nofun, nofun⟩
  | false =>
    exact .inr ⟨_, fun _ => decodeLoop_resync h h1 h2 h3 h4 h5 h6 h7, rfl,
      Nat.add_le_add_left (by decide : 2 ≤ 4) _, hin⟩

/-- Passes that reach past the end of the buffer, two entries each, are all the bit loop takes. -/
theorem decodeLoop_enough (tol : Nat) (buf : Memory) (n k : Nat) : ∀ {w : DecWork},
    w.lenQ < w.offset + 2 * (n + 1) →
    decodeLoop tol buf (n + k + 1) w = decodeLoop tol buf (n + 1) w := by
  induction n with
  | zero =>
    intro w hlen
    obtain ⟨r, h, -⟩ | ⟨w', -, -, -, hin⟩ := decodeLoop_turn tol buf w
    · rw [h, h]
    · omega
  | succ n ih =>
    intro w hlen
    obtain ⟨r, h, -⟩ | ⟨w', h, hl, ho, -⟩ := decodeLoop_turn tol buf w
    · rw [h, h]
    · rw [h, h, Nat.succ_add]
      exact ih (by omega)

/-- The bit loop ends with no code of CHECK. -/
theorem decodeLoop_pastCheck (tol : Nat) (buf : Memory) (n : Nat) :
    ∀ w : DecWork, PastCheck (decodeLoop tol buf n w).1 := by
  induction n with
  | zero => exact fun _ => ⟨nofun, nofun⟩
  | succ n ih =>
    intro w
    obtain ⟨r, h, hr⟩ | ⟨w', h, -⟩ := decodeLoop_turn tol buf w <;> rw [h]
    · exact hr
    · exact ih w'

/-- Nor does a DECODE of 82 entries or more without the overflow signal. -/
theorem decodeBuffer_pastCheck {tol : Nat} {buf : Memory} {w : DecWork} (h : w.ovfQ = false)
    (hlen : 82 ≤ w.lenQ) : PastCheck (decodeBuffer tol buf w).1 := by
  cases hm : matchDur tol (buf.read 0) 7000 with
  | false => rw [decodeBuffer_badHdrMark h hlen hm]; exact ⟨nofun, nofun⟩
  | true =>
  cases hs : matchDur tol (buf.read 1) 4000 with
  | false => rw [decodeBuffer_badHdrSpace h hlen hm hs]; exact ⟨nofun, nofun⟩
  | true => rw [decodeBuffer_loop h hlen hm hs]; exact decodeLoop_pastCheck _ _ _ _

/-! ## What is behind a complete frame (42_decoder.md R162 to R166, R170) -/

/-- With an entry behind the closing space of its first frame, a DECODE comes to the last mark of the
frame with a pass to spare, counts its bit and looks at the space. -/
theorem decodeBuffer_lastMark {tol : Nat} {buf : Memory} {w : DecWork} {p : Payload} (ht : tol ≤ 50)
    (hovf : w.ovfQ = false) (hlen : 83 ≤ w.lenQ) (hf : FrameAt tol buf 0 p) : ∃ n b w0,
    w0 = atMark (initWork w) 0 p 39 ∧ decodeBuffer tol buf w = decodeLoop tol buf (n + 1 + 1) w0 ∧
    budgetSpent w0 = false ∧ pastEnd w0 w0.offset = false ∧
    classifyMark tol (buf.read w0.offset) = some b ∧ cleanEnd (pushBit b w0) = false ∧
    pastEnd (pushBit b w0) (pushBit b w0).offset = false := by
  obtain ⟨n, hn⟩ : ∃ n, w.lenQ / 2 + 1 = n + 1 + 1 + 39 := ⟨w.lenQ / 2 - 40, by omega⟩
  have hmax : 40 ≤ (initWork w).maxBits.toNat := bitBudget_ge (by omega)
  have hin : 0 + 81 ≤ (initWork w).lenQ := show 0 + 81 ≤ w.lenQ by omega
  have hgoes : cleanEnd (behindMark (initWork w) 0 p 39) = false := by
    rw [Bool.eq_false_iff, Ne, cleanEnd_behindMark (by decide)]
    exact fun h => Nat.not_le_of_lt hlen h.2
  have hpush := pushBit_atMark (initWork w) 0 p (k := 39) (by decide)
  refine ⟨n, p.getLsbD (39 - 39), _, rfl, ?_, budgetSpent_atMark hmax (by decide),
    pastEnd_atMark hin (by decide), classifyMark_atMark ht hf (by decide), ?_⟩
  · rw [decodeBuffer_header hovf (by omega) hf, hn, decodeLoop_bits ht hf hmax hin (by decide)]
  · rw [hpush]
    exact ⟨hgoes, pastEnd_behindMark (show 81 < w.lenQ by omega)⟩

/-! ## The obligations -/

/-- Settles O33: the capture holds the frames sent (`captureOf_frames`), and a DECODE of it takes the
last one (`exec_decode_captured`). -/
theorem decodingTheCaptureOfASendGivesThePayloadBack :
    Obligations.DecodingTheCaptureOfASendGivesThePayloadBack := by
  intro s r ht hw hn
  have hlen := length_captureOf_frames s.par.durW (payloadOf s.cw) (r + 1)
  have hframes := captureOf_frames hw (payloadOf s.cw) (r + 1)
  refine ⟨_, sendTrace (payloadOf s.cw) r, exec_send r s, by simp [State.trace], ?_, fun hr => ?_⟩
  · exact exec_decode_captured ht hw hn (hframes ▸ List.prefix_rfl) (.inl hlen)
  · refine exec_decode_captured ht hw hn (hframes ▸ List.dropLast_prefix _) (.inr ⟨?_, hr⟩)
    rw [List.length_dropLast]
    exact congrArg (· - 1) hlen

/-- Settles O27, from the two ends of a DECODE (`exec_decode_cases`) and the forty bits of a success
(`decodeBuffer_endsSane`). -/
theorem decodeAnswersOkOrFailAndWritesOnlyItsResult :
    Obligations.DecodeAnswersOkOrFailAndWritesOnlyItsResult := by
  refine ⟨fun _ _ => decodeOp_decode, fun s => ?_⟩
  have hsane := decodeBuffer_endsSane s.par.tolPct s.buf (sampleInputs s)
  obtain ⟨he, e⟩ | ⟨c, -, e⟩ := exec_decode_cases s
  · exact ⟨_, _, _, e, rfl, .inl ⟨rfl, rfl, rfl, hsane.gathered he, rfl, rfl, rfl, rfl⟩⟩
  · have hc : 1 ≤ (failureCode c).toNat := by cases c <;> decide
    exact ⟨_, _, _, e, rfl, .inr ⟨rfl, failureCode c, hc, failureCode_le c, rfl⟩⟩

/-- Settles O28: past CHECK no end has a code of CHECK (`decodeBuffer_pastCheck`). -/
theorem decodeTestsOverflowThenLength : Obligations.DecodeTestsOverflowThenLength := by
  refine ⟨fun s hovf => exec_decode_fails (decodeBuffer_overflow hovf) rfl,
    fun s hovf hlen => exec_decode_fails (decodeBuffer_short hovf hlen) rfl,
    fun s hovf hlen => ?_⟩
  have hpast : PastCheck (decodeBuffer s.par.tolPct s.buf (sampleInputs s)).1 :=
    decodeBuffer_pastCheck hovf hlen
  obtain ⟨-, e⟩ | ⟨c, hc, e⟩ := exec_decode_cases s
  · exact ⟨_, e, (by decide : (0 : BitVec 4) ≠ 1), (by decide : (0 : BitVec 4) ≠ 10)⟩
  · exact ⟨_, e, (hc ▸ hpast).failureCode_ne⟩

/-- Settles O29, from the two ways the header fails a DECODE. -/
theorem decodeTestsTheHeader : Obligations.DecodeTestsTheHeader :=
  ⟨fun _ hovf hlen hm => exec_decode_fails (decodeBuffer_badHdrMark hovf hlen hm) rfl,
    fun _ hovf hlen hm hs => exec_decode_fails (decodeBuffer_badHdrSpace hovf hlen hm hs) rfl⟩

/-- Settles O30: the passes allowed reach past the end of the buffer (`decodeLoop_enough`). -/
theorem decodeLoopEndsWithinItsBound : Obligations.DecodeLoopEndsWithinItsBound := by
  intro tol buf w n
  rw [Nat.add_right_comm]
  exact decodeLoop_enough tol buf _ n (by omega)

/-- Settles O34: the DECODE comes to the last mark of the frame (`decodeBuffer_lastMark`) and fails on
the space behind it, on the entry behind that, or on the budget, which LEN = 83 sets to forty bits. -/
theorem trailingEntriesFailTheDecode : Obligations.TrailingEntriesFailTheDecode := by
  intro s p ht hovf hlen hf
  obtain ⟨n, b, w, hw, hrun, h, h1, h2, h3, h4⟩ :=
    decodeBuffer_lastMark (w := sampleInputs s) ht hovf hlen hf
  have hfails : ∀ {c w'}, decodeLoop s.par.tolPct s.buf (n + 1 + 1) w = (.failure c, w') →
      ∃ t, exec .decode s = .next t ∧
        t.res = { s.res with ok := false, failCode := failureCode c } := by
    intro c w' hend
    obtain ⟨t, hstep, hres, -⟩ := exec_decode_fails (hrun.trans hend) rfl
    exact ⟨t, hstep, hres⟩
  have hspace : (pushBit b w).offset = 81 := by rw [hw]; rfl
  refine ⟨fun hgap hm => ?_, fun hgap hs => ?_, fun hs hlast => ?_⟩
  · refine hfails (decodeLoop_badResyncMark h h1 h2 h3 h4 ?_ ?_)
    · rw [hspace]
      exact classifySpace_gap hgap
    · rw [hspace]
      exact absent_eq_true.mpr (.inr hm)
  · refine hfails (decodeLoop_badSpace h h1 h2 h3 h4 ?_)
    rw [hspace]
    exact classifySpace_none hgap hs
  · have hspent : (bitBudget s.bufLen).toNat ≤ (39 + 1 : BitVec 7).toNat := by
      rw [hlast]
      decide
    refine hfails ((decodeLoop_interBit h h1 h2 h3 h4 ?_).trans (decodeLoop_spent ?_))
    · rw [hspace]
      exact classifySpace_bitSpace ht hs
    · rw [hw]
      exact decide_eq_true hspent

end Sys2Proof.Machine
end

section
/-! The statements of the decoder's sequencer (42_decoder.md R175 to R178): its branches one by one, what a
step reads, and its agreement with DECODE as one step. -/

namespace Sys2Proof.Machine

/-! ## The sequencer of DECODE, branch by branch (42_decoder.md R176) -/

section
variable {s : State}

section
variable (hst : s.dec.state = .check)
include hst

theorem advanceDecode_overflow (h : s.dec.ovfQ = true) :
    advanceDecode s = failWith .overflow s.dec s := by
  simp [advanceDecode, hst, h]

theorem advanceDecode_short (h : s.dec.ovfQ = false) (hlen : s.dec.lenQ < 82) :
    advanceDecode s = failWith .short s.dec s := by
  simp [advanceDecode, hst, h, Config.minLen, Config.frameBits, hlen]

theorem advanceDecode_long (h : s.dec.ovfQ = false) (hlen : 82 ≤ s.dec.lenQ) :
    advanceDecode s = goTo .hdrM (initWork s.dec) s := by
  simp [advanceDecode, hst, h, Config.minLen, Config.frameBits, Nat.not_lt_of_le hlen]

end

theorem advanceDecode_badHdrMark (hst : s.dec.state = .hdrM)
    (h : matchDur s.par.tolPct (s.buf.read 0) 7000 = false) :
    advanceDecode s = failWith .hdrMark s.dec s := by
  simp [advanceDecode, hst, Config.hdrMark, h]

theorem advanceDecode_hdrMark (hst : s.dec.state = .hdrM)
    (h : matchDur s.par.tolPct (s.buf.read 0) 7000 = true) :
    advanceDecode s = goTo .hdrS (advance 1 s.dec) s := by
  simp [advanceDecode, hst, Config.hdrMark, h]

theorem advanceDecode_badHdrSpace (hst : s.dec.state = .hdrS)
    (h : matchDur s.par.tolPct (s.buf.read 1) 4000 = false) :
    advanceDecode s = failWith .hdrSpace s.dec s := by
  simp [advanceDecode, hst, Config.hdrSpace, h]

theorem advanceDecode_hdrSpace (hst : s.dec.state = .hdrS)
    (h : matchDur s.par.tolPct (s.buf.read 1) 4000 = true) :
    advanceDecode s = goTo .bitM (advance 1 s.dec) s := by
  simp [advanceDecode, hst, Config.hdrSpace, h]

section
variable (hst : s.dec.state = .bitM)
include hst

theorem advanceDecode_spent (h : budgetSpent s.dec = true) :
    advanceDecode s = failWith .budget s.dec s := by
  simp [advanceDecode, hst, h]

theorem advanceDecode_noMark (h : budgetSpent s.dec = false)
    (h1 : pastEnd s.dec s.dec.offset = true) :
    advanceDecode s = failWith .overrun s.dec s := by
  simp [advanceDecode, hst, h, h1]

theorem advanceDecode_badMark (h : budgetSpent s.dec = false)
    (h1 : pastEnd s.dec s.dec.offset = false)
    (h2 : classifyMark s.par.tolPct (s.buf.read s.dec.offset) = none) :
    advanceDecode s = failWith .bitMark (shiftAcc s.dec) s := by
  simp [advanceDecode, hst, h, h1, h2]

theorem advanceDecode_mark (h : budgetSpent s.dec = false)
    (h1 : pastEnd s.dec s.dec.offset = false) {b : Bool}
    (h2 : classifyMark s.par.tolPct (s.buf.read s.dec.offset) = some b) :
    advanceDecode s = goTo .afterM (pushBit b s.dec) s := by
  simp [advanceDecode, hst, h, h1, h2]

end

section
variable (hst : s.dec.state = .afterM)
include hst

theorem advanceDecode_clean (h : cleanEnd s.dec = true) : advanceDecode s = decodeOk s := by
  simp [advanceDecode, hst, h]

variable (h : cleanEnd s.dec = false)
include h

theorem advanceDecode_noSpace (h1 : pastEnd s.dec s.dec.offset = true) :
    advanceDecode s = failWith .overrun s.dec s := by
  simp [advanceDecode, hst, h, h1]

variable (h1 : pastEnd s.dec s.dec.offset = false)
include h1

theorem advanceDecode_badSpace (h2 : classifySpace s.par.tolPct (s.buf.read s.dec.offset) = none) :
    advanceDecode s = failWith .space s.dec s := by
  simp [advanceDecode, hst, h, h1, h2]

theorem advanceDecode_gap (h2 : classifySpace s.par.tolPct (s.buf.read s.dec.offset) = some true) :
    advanceDecode s = goTo .rsyM (discardBits s.dec) s := by
  simp [advanceDecode, hst, h, h1, h2]

theorem advanceDecode_bitSpace
    (h2 : classifySpace s.par.tolPct (s.buf.read s.dec.offset) = some false) :
    advanceDecode s = goTo .bitM (advance 1 s.dec) s := by
  simp [advanceDecode, hst, h, h1, h2]

end

theorem advanceDecode_badResyncMark (hst : s.dec.state = .rsyM)
    (h : (pastEnd s.dec (s.dec.offset + 1) ||
      !matchDur s.par.tolPct (s.buf.read (s.dec.offset + 1)) Config.hdrMark) = true) :
    advanceDecode s = failWith .resyncMark s.dec s := by
  simp only [advanceDecode, hst]
  exact if_pos h

theorem advanceDecode_resyncMark (hst : s.dec.state = .rsyM)
    (h : (pastEnd s.dec (s.dec.offset + 1) ||
      !matchDur s.par.tolPct (s.buf.read (s.dec.offset + 1)) Config.hdrMark) = false) :
    advanceDecode s = goTo .rsyS s.dec s := by
  simp only [advanceDecode, hst]
  exact if_neg (Bool.eq_false_iff.mp h)

theorem advanceDecode_badResyncSpace (hst : s.dec.state = .rsyS)
    (h : (pastEnd s.dec (s.dec.offset + 2) ||
      !matchDur s.par.tolPct (s.buf.read (s.dec.offset + 2)) Config.hdrSpace) = true) :
    advanceDecode s = failWith .resyncSpace s.dec s := by
  simp only [advanceDecode, hst]
  exact if_pos h

theorem advanceDecode_resyncSpace (hst : s.dec.state = .rsyS)
    (h : (pastEnd s.dec (s.dec.offset + 2) ||
      !matchDur s.par.tolPct (s.buf.read (s.dec.offset + 2)) Config.hdrSpace) = false) :
    advanceDecode s = goTo .bitM (advance 3 s.dec) s := by
  simp only [advanceDecode, hst]
  exact if_neg (Bool.eq_false_iff.mp h)

end

/-! ## A step of a DECODE in progress (42_decoder.md R175, R178) -/

/-- With no reset, no SEND and no other agent a step of a DECODE in progress is one of its sequencer. -/
theorem step_decoding {s : State} (hr : s.rst = false) (ht : s.txBusy = false)
    (hb : s.decBusy = true) (ha : s.agents = []) : step s = .next (stepDecode s) := by
  obtain ⟨r, b, d, p, e⟩ := stepDecode_frame s
  rw [step_of_codecStep (codecStep_dec hr ht hb), agentsMove_nil]
  rw [e]
  exact ha

/-- A step of the sequencer that fails, as seen from outside. -/
theorem nextFails_of_failWith {s : State} {st : DecState} {c : DecodeFailure} {w : DecWork}
    (hs : decoding s st) (h : stepDecode s = failWith c w (noResponse s)) :
    nextFails s (failureCode c) := by
  obtain ⟨hr, ht, hb, ha, -⟩ := hs
  exact ⟨_, (step_decoding hr ht hb ha).trans (congrArg _ h), rfl, rfl, rfl, rfl, rfl⟩

/-- A step of the sequencer that goes on, as seen from outside. -/
theorem nextGoesOn_of_goTo {s : State} {st st' : DecState} {w : DecWork} (hs : decoding s st)
    (h : stepDecode s = goTo st' w (noResponse s)) : nextGoesOn s (inState st' w) := by
  obtain ⟨hr, ht, hb, ha, -⟩ := hs
  exact (step_decoding hr ht hb ha).trans (congrArg _ h)

/-- A step of the sequencer neither reads nor writes what `buf_len` and `buf_ovf` declare (R178). -/
theorem advanceDecode_declaration (s : State) (len : Nat) (ovf : Bool) :
    advanceDecode { s with bufLen := len, bufOvf := ovf } =
      { advanceDecode s with bufLen := len, bufOvf := ovf } := by
  simp only [advanceDecode]
  repeat' split
  all_goals rfl

/-- A step of the sequencer reads the buffer below LEN_Q only, if the header is there (R158). -/
theorem advanceDecode_congr {s : State} {m : Memory} (h : agreeBelow s.dec.lenQ s.buf m)
    (hhdr : s.dec.state = .hdrM ∨ s.dec.state = .hdrS → 2 ≤ s.dec.lenQ) :
    advanceDecode { s with buf := m } = { advanceDecode s with buf := m } := by
  cases hst : s.dec.state with
  | idle => simp only [advanceDecode, hst]
  | check =>
    simp only [advanceDecode, hst]
    repeat' split
    all_goals rfl
  | hdrM =>
    have hmark := h 0 (by have := hhdr (.inl hst); omega)
    simp only [advanceDecode, hst, hmark]
    split <;> rfl
  | hdrS =>
    have hspace := h 1 (hhdr (.inr hst))
    simp only [advanceDecode, hst, hspace]
    split <;> rfl
  | bitM | afterM =>
    cases hp : pastEnd s.dec s.dec.offset with
    | true =>
      simp only [advanceDecode, hst, hp]
      split <;> rfl
    | false =>
      simp only [advanceDecode, hst, h _ (pastEnd_eq_false.mp hp)]
      repeat' split
      all_goals rfl
  | rsyM | rsyS =>
    simp only [advanceDecode, hst, absent_congr h]
    split <;> rfl

/-- The length check is behind a sane decoder that reads the header (R153). -/
theorem two_le_lenQ_of_header {w : DecWork} (h : decoderSane w)
    (hst : w.state = .hdrM ∨ w.state = .hdrS) : 2 ≤ w.lenQ := by
  have hlong : Counting w → 2 ≤ w.lenQ := fun hw => le_trans (by decide) hw.long
  rcases hst with hst | hst <;> (rw [decoderSane, hst] at h; exact hlong h.1)

/-- At the tick level an accepted DECODE samples its inputs and starts the sequencer. -/
theorem step_acceptDecode {s : State} {w : OpWord} {rest : List OpWord} (hr : s.rst = false)
    (hb : s.busy = false) (hl : s.level = .tick) (ha : s.agents = []) (hh : s.host = w :: rest)
    (hw : decodeOp s.par.rptW w = .decode) :
    step s = .next (startDecode (noResponse { s with host := rest })) := by
  have haccept : codecStep s = .next (startDecode (noResponse { s with host := rest })) := by
    rw [codecStep_accept hr hb hh, hw]
    exact acceptOp_decode hl
  rw [step_of_codecStep haccept, agentsMove_nil]
  exact ha

/-! ## The sequencer runs the operation (42_decoder.md R177) -/

/-- At most so many steps from `s` lead to `t`, and until then the decoder is busy and has not
answered. -/
inductive DecodesWithin : Nat → State → State → Prop
  | ends {m : Nat} {s t : State} (h : step s = .next t) (hb : s.decBusy = true)
      (hr : s.rsp = none) : DecodesWithin (m + 1) s t
  | goesOn {m : Nat} {s t u : State} (h : step s = .next u) (hb : s.decBusy = true)
      (hr : s.rsp = none) (h' : DecodesWithin m u t) : DecodesWithin (m + 1) s t

theorem DecodesWithin.run {m : Nat} {s t : State} (h : DecodesWithin m s t) :
    ∃ n, n ≤ m ∧ Host.Core.run core n s = .next t ∧
      ∀ k, k < n → ∃ u, Host.Core.run core k s = .next u ∧ u.decBusy = true ∧ u.rsp = none := by
  induction h with
  | @ends m s t h hb hr =>
    refine ⟨1, Nat.le_add_left _ _, run_succ (M := core) h 0, fun k hk => ?_⟩
    rw [Nat.lt_one_iff.mp hk]
    exact ⟨s, rfl, hb, hr⟩
  | @goesOn m s t u h hb hr _ ih =>
    obtain ⟨n, hn, hrun, hbusy⟩ := ih
    refine ⟨n + 1, Nat.succ_le_succ hn, (run_succ (M := core) h n).trans hrun, fun k hk => ?_⟩
    cases k with
    | zero => exact ⟨s, rfl, hb, hr⟩
    | succ k =>
      rw [run_succ (M := core) h]
      exact hbusy k (Nat.lt_of_succ_lt_succ hk)

/-- Nothing but the decoder moves in this state. -/
structure Quiet (s : State) : Prop where
  rst    : s.rst = false
  txBusy : s.txBusy = false
  agents : s.agents = []

/-- The state `s` with a DECODE in progress at these registers, before its response. -/
def inDecode (st : DecState) (w : DecWork) (s : State) : State :=
  { s with decBusy := true, rsp := none, dec := inState st w }

/-- The state `s` after a DECODE with this end. -/
def decoded (r : DecodeEnd × DecWork) (s : State) : State := finishDecode r.1 { s with dec := r.2 }

section
variable {s : State} (hs : Quiet s) {m : Nat} {st : DecState} {w : DecWork}
include hs

theorem Quiet.step_inDecode (st : DecState) (w : DecWork) :
    step (inDecode st w s) = .next (advanceDecode (inDecode st w s)) :=
  step_decoding (s := inDecode st w s) hs.rst hs.txBusy rfl hs.agents

theorem Quiet.ends {r : DecodeEnd × DecWork} (h : advanceDecode (inDecode st w s) = decoded r s) :
    DecodesWithin (m + 1) (inDecode st w s) (decoded r s) :=
  .ends (h ▸ hs.step_inDecode st w) rfl rfl

theorem Quiet.goesOn {t : State} {st' : DecState} {w' : DecWork}
    (h : advanceDecode (inDecode st w s) = inDecode st' w' s)
    (h' : DecodesWithin m (inDecode st' w' s) t) : DecodesWithin (m + 1) (inDecode st w s) t :=
  .goesOn (h ▸ hs.step_inDecode st w) rfl rfl h'

end

/-- From any data mark within the buffer the sequencer runs the bit loop of `n` passes that reach past
the end, in a step for every entry left and one more. -/
def LoopRuns (s : State) (n : Nat) : Prop := ∀ (w : DecWork) (m : Nat), w.offset ≤ w.lenQ →
  w.lenQ < w.offset + 2 * n → w.lenQ ≤ w.offset + m →
    DecodesWithin (m + 1) (inDecode .bitM w s) (decoded (decodeLoop s.par.tolPct s.buf n w) s)

section
variable {s : State} (hs : Quiet s) {n : Nat} (ih : LoopRuns s n) {w : DecWork} {b : Bool} {m : Nat}
  (hn : w.lenQ < w.offset + 2 * (n + 1))
  (h : budgetSpent w = false) (h1 : pastEnd w w.offset = false)
  (h2 : classifyMark s.par.tolPct (s.buf.read w.offset) = some b)
  (h3 : cleanEnd (pushBit b w) = false)
  (h4 : pastEnd (pushBit b w) (pushBit b w).offset = false)
include hs ih hn h h1 h2

include h3 h4 in
/-- Behind a repeat boundary the sequencer reads the two header entries (R164). -/
theorem Quiet.runs_resync
    (h5 : classifySpace s.par.tolPct (s.buf.read (pushBit b w).offset) = some true)
    (hm : w.lenQ ≤ w.offset + 2 + m) :
    DecodesWithin (m + 1) (inDecode .rsyM (discardBits (pushBit b w)) s)
      (decoded (decodeLoop s.par.tolPct s.buf (n + 1) w) s) := by
  cases h6 : pastEnd (pushBit b w) ((pushBit b w).offset + 1) ||
      !matchDur s.par.tolPct (s.buf.read ((pushBit b w).offset + 1)) Config.hdrMark with
  | true =>
    rw [decodeLoop_badResyncMark h h1 h2 h3 h4 h5 h6]
    exact hs.ends (advanceDecode_badResyncMark rfl h6)
  | false =>
  have hin : w.offset + 2 < w.lenQ := (absent_eq_false.mp h6).1
  obtain ⟨m, rfl⟩ : ∃ k, m = k + 1 := ⟨m - 1, by omega⟩
  refine hs.goesOn (advanceDecode_resyncMark rfl h6) ?_
  cases h7 : pastEnd (pushBit b w) ((pushBit b w).offset + 2) ||
      !matchDur s.par.tolPct (s.buf.read ((pushBit b w).offset + 2)) Config.hdrSpace with
  | true =>
    rw [decodeLoop_badResyncSpace h h1 h2 h3 h4 h5 h6 h7]
    exact hs.ends (advanceDecode_badResyncSpace rfl h7)
  | false =>
  have hin : w.offset + 3 < w.lenQ := (absent_eq_false.mp h7).1
  obtain ⟨m, rfl⟩ : ∃ k, m = k + 1 := ⟨m - 1, by omega⟩
  rw [decodeLoop_resync h h1 h2 h3 h4 h5 h6 h7]
  have hoff : (advance 3 (discardBits (pushBit b w))).offset = w.offset + 4 := rfl
  have hlen : (advance 3 (discardBits (pushBit b w))).lenQ = w.lenQ := rfl
  refine hs.goesOn (advanceDecode_resyncSpace rfl h7)
    (ih (advance 3 (discardBits (pushBit b w))) m ?_ ?_ ?_) <;> rw [hoff, hlen] <;> omega

/-- Behind a counted bit the sequencer looks for the clean end and then at the space (R162 to R165). -/
theorem Quiet.runs_space (hm : w.lenQ ≤ w.offset + 1 + m) :
    DecodesWithin (m + 1) (inDecode .afterM (pushBit b w) s)
      (decoded (decodeLoop s.par.tolPct s.buf (n + 1) w) s) := by
  cases h3 : cleanEnd (pushBit b w) with
  | true =>
    rw [decodeLoop_clean h h1 h2 h3]
    exact hs.ends (advanceDecode_clean rfl h3)
  | false =>
  cases h4 : pastEnd (pushBit b w) (pushBit b w).offset with
  | true =>
    rw [decodeLoop_noSpace h h1 h2 h3 h4]
    exact hs.ends (advanceDecode_noSpace rfl h3 h4)
  | false =>
  have hin : w.offset + 1 < w.lenQ := pastEnd_eq_false.mp h4
  obtain ⟨m, rfl⟩ : ∃ k, m = k + 1 := ⟨m - 1, by omega⟩
  cases h5 : classifySpace s.par.tolPct (s.buf.read (pushBit b w).offset) with
  | none =>
    rw [decodeLoop_badSpace h h1 h2 h3 h4 h5]
    exact hs.ends (advanceDecode_badSpace rfl h3 h4 h5)
  | some gap =>
  cases gap with
  | true =>
    exact hs.goesOn (advanceDecode_gap rfl h3 h4 h5)
      (hs.runs_resync ih hn h h1 h2 h3 h4 h5 (by omega))
  | false =>
    rw [decodeLoop_interBit h h1 h2 h3 h4 h5]
    have hoff : (advance 1 (pushBit b w)).offset = w.offset + 2 := rfl
    have hlen : (advance 1 (pushBit b w)).lenQ = w.lenQ := rfl
    refine hs.goesOn (advanceDecode_bitSpace rfl h3 h4 h5)
      (ih (advance 1 (pushBit b w)) m ?_ ?_ ?_) <;>
      rw [hoff, hlen] <;> omega

end

section
variable {s : State} (hs : Quiet s)
include hs

/-- The sequencer runs the bit loop, pass by pass (R159 to R166). -/
theorem Quiet.loopRuns (n : Nat) : LoopRuns s n := by
  induction n with
  | zero => intro w m hin hn _; omega
  | succ n ih =>
    intro w m hin hn hm
    cases h : budgetSpent w with
    | true =>
      rw [decodeLoop_spent h]
      exact hs.ends (advanceDecode_spent rfl h)
    | false =>
    cases h1 : pastEnd w w.offset with
    | true =>
      rw [decodeLoop_noMark h h1]
      exact hs.ends (advanceDecode_noMark rfl h h1)
    | false =>
    cases h2 : classifyMark s.par.tolPct (s.buf.read w.offset) with
    | none =>
      rw [decodeLoop_badMark h h1 h2]
      exact hs.ends (advanceDecode_badMark rfl h h1 h2)
    | some b =>
    have hlt := pastEnd_eq_false.mp h1
    obtain ⟨m, rfl⟩ : ∃ k, m = k + 1 := ⟨m - 1, by omega⟩
    exact hs.goesOn (advanceDecode_mark rfl h h1 h2) (hs.runs_space ih hn h h1 h2 (by omega))

/-- From CHECK the sequencer runs the whole of DECODE (R152 to R166). -/
theorem Quiet.runs_decode (w : DecWork) : DecodesWithin (w.lenQ + 2) (inDecode .check w s)
    (decoded (decodeBuffer s.par.tolPct s.buf w) s) := by
  cases hovf : w.ovfQ with
  | true =>
    rw [decodeBuffer_overflow hovf]
    exact hs.ends (advanceDecode_overflow rfl hovf)
  | false =>
  rcases Nat.lt_or_ge w.lenQ 82 with hlen | hlen
  · rw [decodeBuffer_short hovf hlen]
    exact hs.ends (advanceDecode_short rfl hovf hlen)
  · refine hs.goesOn (advanceDecode_long rfl hovf hlen) ?_
    cases hmark : matchDur s.par.tolPct (s.buf.read 0) 7000 with
    | false =>
      rw [decodeBuffer_badHdrMark hovf hlen hmark]
      exact hs.ends (advanceDecode_badHdrMark rfl hmark)
    | true =>
    obtain ⟨k, hk⟩ : ∃ k, w.lenQ = k + 1 + 1 := ⟨w.lenQ - 2, by omega⟩
    rw [hk]
    refine hs.goesOn (advanceDecode_hdrMark rfl hmark) ?_
    cases hspace : matchDur s.par.tolPct (s.buf.read 1) 4000 with
    | false =>
      rw [decodeBuffer_badHdrSpace hovf hlen hmark hspace]
      exact hs.ends (advanceDecode_badHdrSpace rfl hspace)
    | true =>
    rw [decodeBuffer_loop hovf hlen hmark hspace]
    have hoff : (advance 1 (advance 1 (initWork w))).offset = 2 := rfl
    have hlenQ : (advance 1 (advance 1 (initWork w))).lenQ = w.lenQ := rfl
    refine hs.goesOn (advanceDecode_hdrSpace rfl hspace)
      (hs.loopRuns _ (advance 1 (advance 1 (initWork w))) k ?_ ?_ ?_) <;>
      rw [hoff, hlenQ] <;> omega

end

/-! ## The obligations -/

/-- Settles O46: after acceptance the sequencer runs the operation (`Quiet.runs_decode`). -/
theorem tickLevelDecodeAgreesWithTheOperation :
    Obligations.TickLevelDecodeAgreesWithTheOperation := by
  intro s w rest hr hb hl ha hh hw
  have ht : s.txBusy = false := (Bool.or_eq_false_iff.mp hb).1
  have hquiet : Quiet { s with host := rest } := ⟨hr, ht, ha⟩
  have hstep := step_acceptDecode hr hb hl ha hh hw
  obtain ⟨n, hn, hrun, hbusy⟩ := (hquiet.runs_decode (sampleInputs s)).run
  refine ⟨n + 1, Nat.succ_le_succ hn, (run_succ (M := core) hstep n).trans hrun, fun k h1 hk => ?_⟩
  obtain ⟨j, rfl⟩ := Nat.exists_eq_add_of_le' h1
  rw [run_succ (M := core) hstep]
  exact hbusy j (Nat.lt_of_succ_lt_succ hk)

/-- Settles O51: the invariant puts the header below LEN_Q (`two_le_lenQ_of_header`), and the sequencer
reads nothing past it (`advanceDecode_congr`). -/
theorem decodeInProgressReadsNothingPastItsLength :
    Obligations.DecodeInProgressReadsNothingPastItsLength := by
  intro s m hinv hr hb ha h
  have ht : s.txBusy = false := Bool.eq_false_iff.mpr fun ht => hinv.exclusive ⟨ht, hb⟩
  have hcongr := advanceDecode_congr (s := noResponse s) h (two_le_lenQ_of_header hinv.decoder)
  exact ⟨_, step_decoding hr ht hb ha,
    (step_decoding (s := { s with buf := m }) hr ht hb ha).trans (congrArg _ hcongr)⟩

/-- Settles O47: acceptance (`step_acceptDecode`), CHECK, and the two header entries, branch by
branch. -/
theorem decoderSequencerReadsTheHeader : Obligations.DecoderSequencerReadsTheHeader := by
  refine ⟨fun s w rest hr hb hl ha hh hw => step_acceptDecode hr hb hl ha hh hw,
    fun s hs => ?_, fun s hs => ?_, fun s hs => ?_⟩ <;> obtain ⟨-, -, -, -, hst⟩ := id hs
  · exact ⟨fun h => nextFails_of_failWith hs (advanceDecode_overflow hst h),
      fun h hlen => nextFails_of_failWith hs (advanceDecode_short hst h hlen),
      fun h hlen => nextGoesOn_of_goTo hs (advanceDecode_long hst h hlen)⟩
  · exact ⟨fun h => nextFails_of_failWith hs (advanceDecode_badHdrMark hst h),
      fun h => nextGoesOn_of_goTo hs (advanceDecode_hdrMark hst h)⟩
  · exact ⟨fun h => nextFails_of_failWith hs (advanceDecode_badHdrSpace hst h),
      fun h => nextGoesOn_of_goTo hs (advanceDecode_hdrSpace hst h)⟩

/-- Settles O48, branch by branch of BIT_M; a mark matching 720 is a 0, one matching only 2400 a 1. -/
theorem decoderSequencerReadsAMark : Obligations.DecoderSequencerReadsAMark := by
  intro s hs
  obtain ⟨-, -, -, -, hst⟩ := id hs
  refine ⟨fun h => nextFails_of_failWith hs (advanceDecode_spent hst (decide_eq_true h)),
    fun h h1 => nextFails_of_failWith hs
      (advanceDecode_noMark hst (budgetSpent_eq_false.mpr h) (decide_eq_true h1)),
    fun h h1 => ?_⟩
  have hb : budgetSpent s.dec = false := budgetSpent_eq_false.mpr h
  have hp : pastEnd s.dec s.dec.offset = false := pastEnd_eq_false.mpr h1
  refine ⟨fun h720 => ?_, fun h720 h2400 => ?_, fun h720 h2400 => ?_⟩
  · have hgo := nextGoesOn_of_goTo hs
      (advanceDecode_mark (s := noResponse s) hst hb hp (classifyMark_zero h720))
    rw [pushBit_zero] at hgo
    exact hgo
  · exact nextGoesOn_of_goTo hs
      (advanceDecode_mark (s := noResponse s) hst hb hp (classifyMark_one h720 h2400))
  · exact nextFails_of_failWith hs
      (advanceDecode_badMark (s := noResponse s) hst hb hp (classifyMark_none h720 h2400))

/-- Settles O49, branch by branch of AFTER_M, RSY_M and RSY_S. -/
theorem decoderSequencerInspectsTheSpace : Obligations.DecoderSequencerInspectsTheSpace := by
  refine ⟨fun s hs => ?_, fun s hs => ?_, fun s hs => ?_⟩ <;> obtain ⟨hr, ht, hb, ha, hst⟩ := id hs
  · refine ⟨fun hn hlen => ?_, fun hgoes => ?_⟩
    · have hclean := advanceDecode_clean (s := noResponse s) hst (cleanEnd_eq_true.mpr ⟨hn, hlen⟩)
      exact ⟨_, (step_decoding hr ht hb ha).trans (congrArg _ hclean), rfl, rfl, rfl, rfl, rfl⟩
    have hc : cleanEnd s.dec = false := Bool.eq_false_iff.mpr (mt cleanEnd_eq_true.mp hgoes)
    refine ⟨fun hpast => nextFails_of_failWith hs
      (advanceDecode_noSpace (s := noResponse s) hst hc (decide_eq_true hpast)), fun hin => ?_⟩
    have hp : pastEnd s.dec s.dec.offset = false := pastEnd_eq_false.mpr hin
    exact ⟨fun h2700 => nextGoesOn_of_goTo hs
        (advanceDecode_gap (s := noResponse s) hst hc hp (classifySpace_gap h2700)),
      fun h2700 h840 => nextGoesOn_of_goTo hs
        (advanceDecode_bitSpace (s := noResponse s) hst hc hp (classifySpace_between h2700 h840)),
      fun h2700 h840 => nextFails_of_failWith hs
        (advanceDecode_badSpace (s := noResponse s) hst hc hp (classifySpace_none h2700 h840))⟩
  · exact ⟨fun h => nextFails_of_failWith hs
        (advanceDecode_badResyncMark (s := noResponse s) hst (absent_eq_true.mpr h)),
      fun hin h => nextGoesOn_of_goTo hs
        (advanceDecode_resyncMark (s := noResponse s) hst (absent_eq_false.mpr ⟨hin, h⟩))⟩
  · exact ⟨fun h => nextFails_of_failWith hs
        (advanceDecode_badResyncSpace (s := noResponse s) hst (absent_eq_true.mpr h)),
      fun hin h => nextGoesOn_of_goTo hs
        (advanceDecode_resyncSpace (s := noResponse s) hst (absent_eq_false.mpr ⟨hin, h⟩))⟩

/-- Settles O50: the sequencer does not look at the declaration (`advanceDecode_declaration`). -/
theorem decodeInProgressIgnoresTheDeclaration :
    Obligations.DecodeInProgressIgnoresTheDeclaration :=
  fun s len ovf hr ht hb ha => ⟨_, step_decoding hr ht hb ha,
    (step_decoding (s := { s with bufLen := len, bufOvf := ovf }) hr ht hb ha).trans
      (congrArg _ (advanceDecode_declaration (noResponse s) len ovf))⟩

end Sys2Proof.Machine
end

section
/-! The statements about what may stop or disturb the codec (60_exceptions.md R190, R202, R243): every
step answers a next state, and only the port and the reset act on it. -/

namespace Sys2Proof.Machine

/-! ## Every step answers a next state -/

theorem exec_next (i : Instr) (s : State) : ∃ t, exec i s = .next t := by
  obtain ⟨p, h⟩ | ⟨-, c, p, h⟩ | ⟨-, g, h⟩ | ⟨r, -, h⟩ | ⟨-, r, d, p, h⟩ := exec_cases i s <;>
    exact ⟨_, h⟩

theorem acceptOp_next (i : Instr) (s : State) : ∃ t, acceptOp i s = .next t := by
  obtain h | ⟨r, -, h⟩ | ⟨-, h⟩ := acceptOp_cases i s
  · rw [h]
    exact exec_next i s
  · exact ⟨_, h⟩
  · exact ⟨_, h⟩

theorem codecStep_idlePort_next {s : State} (hr : s.rst = false) (hb : s.busy = false) :
    ∃ t, codecStep s = .next t := by
  cases hh : s.host with
  | nil => exact ⟨_, codecStep_idle hr hb hh⟩
  | cons w rest =>
    rw [codecStep_accept hr hb hh]
    exact acceptOp_next _ _

/-- Reset, a SEND or a DECODE in progress and an idle port, in the order of R220 and R200. -/
theorem codecStep_next (s : State) : ∃ t, codecStep s = .next t := by
  cases hr : s.rst with
  | true => exact ⟨_, codecStep_rst hr⟩
  | false =>
    cases ht : s.txBusy with
    | true => exact ⟨_, codecStep_tx hr ht⟩
    | false =>
      cases hd : s.decBusy with
      | true => exact ⟨_, codecStep_dec hr ht hd⟩
      | false => exact codecStep_idlePort_next hr (by simp [State.busy, ht, hd])

theorem step_next (s : State) : ∃ t, step s = .next t := by
  obtain ⟨t, h⟩ := codecStep_next s
  exact ⟨_, step_of_codecStep h⟩

/-! ## The obligations -/

/-- Settles O38, by induction on the number of steps (`step_next`). -/
theorem noRunEverStops : Obligations.NoRunEverStops := by
  intro s k
  induction k generalizing s with
  | zero => exact ⟨s, rfl⟩
  | succ k ih =>
    obtain ⟨t, h⟩ := step_next s
    rw [run_succ (M := core) h]
    exact ih t

/-- Settles O41: an idle codec only drops its response (`codecStep_idle`), and the agents' moves reach
inputs only (`agentsMove_codec`). -/
theorem nothingAsynchronousAltersTheCodec : Obligations.NothingAsynchronousAltersTheCodec := by
  refine ⟨fun s hr hb hh => step_of_codecStep (codecStep_idle hr hb hh), fun s => ?_⟩
  obtain ⟨h, r, t, l, o, b, a, e⟩ := agentsMove_codec s
  rw [e]
  exact ⟨rfl, rfl, rfl, rfl, rfl, rfl, rfl, rfl, rfl⟩

end Sys2Proof.Machine
end

section
/-! The statements about the first operation after reset (70_reset_and_hazards.md R222, R223) and about
a time base that stops during a SEND (R244). -/

namespace Sys2Proof.Machine

/-! ## The first operation after reset -/

theorem exec_agents {i : Instr} {s t : State} (h : exec i s = .next t) : t.agents = s.agents := by
  obtain ⟨u, hu, -, -, -, -, -, -, hagents, -⟩ := everyInstructionKeepsWhatIsNotItsOwn i s
  cases hu.symm.trans h
  exact hagents

/-! ## A stopped time base -/

/-- A state that steps to itself is left by no run. -/
theorem run_fixed {M : Host.Core} {s : M.State} (h : M.step s = .next s) (k : Nat) :
    M.run k s = .next s := by
  induction k with
  | zero => rfl
  | succ k ih => rw [run_succ h, ih]

/-- With the time base stopped and no other agent moving, a step of a SEND in progress only drops an
earlier response. -/
theorem step_stopped {s : State} (hr : s.rst = false) (hb : s.txBusy = true) (hk : s.tick = false)
    (ha : s.agents = []) : step s = .next (noResponse s) := by
  have hc : codecStep s = .next (noResponse s) := by
    rw [codecStep_tx hr hb, stepSend_stopped hk]
  rw [step_of_codecStep hc, agentsMove_nil (s := noResponse s) ha]

/-! ## The obligations -/

/-- Settles O52: the first step drops an earlier response (`step_stopped`), and the state it leaves
steps to itself. -/
theorem stoppedTimeBaseHoldsTheSend : Obligations.StoppedTimeBaseHoldsTheSend := by
  intro s hr hb hk ha k
  have hheld : step (noResponse s) = .next (noResponse s) :=
    step_stopped (s := noResponse s) hr hb hk ha
  exact (run_succ (M := core) (step_stopped hr hb hk ha) k).trans (run_fixed (M := core) hheld k)

/-- Settles O2: the word is first on the idle port of the reset state, so its step runs it
(`step_runs`), and no agent moves after it (`exec_agents`). -/
theorem firstOperationAfterResetMayBeAnyWord :
    Obligations.FirstOperationAfterResetMayBeAnyWord := by
  intro w
  obtain ⟨t, r, hexec, hstep, hhost, hrsp⟩ :=
    step_runs (s := { State.reset with host := [w] }) (rest := []) rfl rfl rfl rfl
  rw [agentsMove_nil (exec_agents hexec)] at hstep
  exact ⟨t, r, hstep, hhost, hrsp, hexec⟩

end Sys2Proof.Machine
end
